-- ==== Sys2Proof/Word.lean ====
section
/-! DEFINITION. The word and frame types of the block (00_scope.md R10). -/

namespace Sys2Proof

/-- A CommandWord, a hold entry and the response register: 32 bits (00_scope.md R10). -/
abbrev Word := BitVec 32

/-- One octet of a radio frame. -/
abbrev Octet := BitVec 8

/-- A frame is exactly 4 octets, `o0` sent first (20_memory.md R53, R54). -/
structure Frame where
  o0 : Octet
  o1 : Octet
  o2 : Octet
  o3 : Octet
deriving DecidableEq, Repr

end Sys2Proof
end

