-- ==== Sys2Proof/Config.lean ====
section
/-! DEFINITION. What is fixed at a node's construction (00_scope.md R9) and the free values. -/

namespace Sys2Proof

/-- The twelve opcode names, in the source's order (30_encoding.md R72). -/
inductive OpName where
  | testStation
  | programAddDel
  | programMainSetup
  | programDays
  | programStartTime
  | programDuration
  | timeSync
  | timeZoneSync
  | currentRequest
  | emergencyShutdown
  | stationReboot
  | syncError
deriving DecidableEq, Repr

/-- All twelve names (30_encoding.md R72). -/
def OpName.all : List OpName :=
  [.testStation, .programAddDel, .programMainSetup, .programDays, .programStartTime,
   .programDuration, .timeSync, .timeZoneSync, .currentRequest, .emergencyShutdown,
   .stationReboot, .syncError]

/-- The role of a node, fixed at construction (10_state.md R22). -/
inductive Role where
  | remote
  | station
deriving DecidableEq, Repr

/-- What a receive completion with an error status does (42_link_tick.md R180). -/
inductive RxErrorPolicy where
  | rearm
  | expire
deriving DecidableEq, Repr

/-- The parameter `OPC`: the 5-bit value of each name (30_encoding.md R72). -/
structure OpcodeMap where
  testStation       : BitVec 5
  programAddDel     : BitVec 5
  programMainSetup  : BitVec 5
  programDays       : BitVec 5
  programStartTime  : BitVec 5
  programDuration   : BitVec 5
  timeSync          : BitVec 5
  timeZoneSync      : BitVec 5
  currentRequest    : BitVec 5
  emergencyShutdown : BitVec 5
  stationReboot     : BitVec 5
  syncError         : BitVec 5
deriving DecidableEq, Repr

/-- `OPC(n)` (30_encoding.md R72). -/
def OpcodeMap.get (m : OpcodeMap) : OpName → BitVec 5
  | .testStation       => m.testStation
  | .programAddDel     => m.programAddDel
  | .programMainSetup  => m.programMainSetup
  | .programDays       => m.programDays
  | .programStartTime  => m.programStartTime
  | .programDuration   => m.programDuration
  | .timeSync          => m.timeSync
  | .timeZoneSync      => m.timeZoneSync
  | .currentRequest    => m.currentRequest
  | .emergencyShutdown => m.emergencyShutdown
  | .stationReboot     => m.stationReboot
  | .syncError         => m.syncError

/-- The default `OPC` of 30_encoding.md R72, which opcode_table.json is written in: the spec's own
choice (92_eei_decisions.md D2). No rule depends on it. -/
def OpcodeMap.table : OpcodeMap where
  testStation       := 1
  programAddDel     := 2
  programMainSetup  := 3
  programDays       := 4
  programStartTime  := 5
  programDuration   := 6
  timeSync          := 7
  timeZoneSync      := 8
  currentRequest    := 9
  emergencyShutdown := 10
  stationReboot     := 11
  syncError         := 12

/-- The construction parameters (00_scope.md R9) and those of the dispatcher's contract
(45_dispatcher_contract.md R261, R274). DEDUCED (log 2): they stand in State as data, and no step
writes them. -/
structure Config where
  /-- `ROLE` (10_state.md R22). -/
  role          : Role
  /-- `K`, the hold's capacity in words. -/
  k             : Nat
  /-- `W`, the window budget in seconds. -/
  w             : Nat
  /-- `D`, the dead time in seconds; no rule reads it (92_eei_decisions.md D20). -/
  d             : Nat
  /-- `S`, the Station's settle delay in seconds. -/
  s             : Nat
  /-- `OPC`. -/
  opc           : OpcodeMap
  /-- `ASSOC_RESET`. -/
  assocReset    : Bool
  /-- `RX_ERROR_POLICY`. -/
  rxErrorPolicy : RxErrorPolicy
  /-- `TIME_BITS`, the width of the host's seconds counter; no rule reads it, since time is an unbounded
  natural (00_scope.md R12, 92_eei_decisions.md D6; log 16). -/
  timeBits      : Nat
  /-- `REBOOT_CAUSE` (45_dispatcher_contract.md R274). -/
  rebootCause   : Nat
  /-- `N_STATIONS`, the length of the duration array (45_dispatcher_contract.md R261). -/
  nStations     : Nat
deriving DecidableEq, Repr

/-- The defaults of 95_test_vectors.md (K = 4, W = 5, S = 0, the default `OPC`, ASSOC_RESET = 1,
Rearm). DESIGN CHOICE (log 3): role Station, D = 0, TIME_BITS = 64, REBOOT_CAUSE = 0 and
N_STATIONS = 256, none of which the spec gives. -/
def Config.vectors : Config where
  role          := .station
  k             := 4
  w             := 5
  d             := 0
  s             := 0
  opc           := .table
  assocReset    := true
  rxErrorPolicy := .rearm
  timeBits      := 64
  rebootCause   := 0
  nStations     := 256

/-- Free value (log 9): what `program_count()` answers after an upsert at a slot beyond the count,
for the n-th such upsert, the count before it and the slot. Neither the source nor the test store of
95_test_vectors.md says. -/
opaque Config.upsertBeyondCount : Nat → Nat → Nat → Nat

/-- `MAX_SLOT`, "max 40" in the source; no rule reads it (30_encoding.md R88). -/
def maxSlot : Nat := 40

end Sys2Proof
end

