-- ==== Sys2Proof/Syntax.lean ====
section
/-! DEFINITION. The command words, one constructor for each row of opcode_table.json, with the fields
of its layout in the order of the spec's tables, lowest payload bit first (30_encoding.md R76 to
R87). A field is a natural number, as `encode` takes it (40_codec.md R110); what `slice` yields
always fits its width (log 19). -/

namespace Sys2Proof

/-- A command with its fields (40_codec.md R115, without its `Unknown`). -/
inductive Instr where
  /-- 30_encoding.md R76. -/
  | testStation (on stationId durationS : Nat)
  /-- 30_encoding.md R77. -/
  | programAddDel (slotId add : Nat)
  /-- 30_encoding.md R78. -/
  | programMainSetup (slotId enabled useWeather oddEven scheduleType programCount : Nat)
  /-- 30_encoding.md R79. -/
  | programDays (slotId dayMask : Nat)
  /-- 30_encoding.md R80. -/
  | programStartTime (slotId stIndex startTime stType : Nat)
  /-- 30_encoding.md R81. -/
  | programDuration (slotId stationId durationMin : Nat)
  /-- 30_encoding.md R82. -/
  | timeSync (minutes : Nat)
  /-- 30_encoding.md R83. -/
  | timeZoneSync (tzCode : Nat)
  /-- 30_encoding.md R84. -/
  | currentRequest
  /-- 30_encoding.md R85. -/
  | emergencyShutdown
  /-- 30_encoding.md R86. -/
  | stationReboot
  /-- 30_encoding.md R87. -/
  | syncError
deriving DecidableEq, Repr

/-- The result of `slice` (40_codec.md R115): a command, or `Unknown(op, payload)`. -/
inductive Command where
  | known (i : Instr)
  | unknown (op : BitVec 5) (payload : BitVec 27)
deriving DecidableEq, Repr

/-- The opcode name of a command. -/
def Instr.opName : Instr → OpName
  | .testStation _ _ _            => .testStation
  | .programAddDel _ _            => .programAddDel
  | .programMainSetup _ _ _ _ _ _ => .programMainSetup
  | .programDays _ _              => .programDays
  | .programStartTime _ _ _ _     => .programStartTime
  | .programDuration _ _ _        => .programDuration
  | .timeSync _                   => .timeSync
  | .timeZoneSync _               => .timeZoneSync
  | .currentRequest               => .currentRequest
  | .emergencyShutdown            => .emergencyShutdown
  | .stationReboot                => .stationReboot
  | .syncError                    => .syncError

/-- The fields of a command, in the order of its layout. -/
def Instr.fields : Instr → List Nat
  | .testStation on sid dur            => [on, sid, dur]
  | .programAddDel slot add            => [slot, add]
  | .programMainSetup slot en uw oe st pc => [slot, en, uw, oe, st, pc]
  | .programDays slot days             => [slot, days]
  | .programStartTime slot ix t ty     => [slot, ix, t, ty]
  | .programDuration slot sid dur      => [slot, sid, dur]
  | .timeSync minutes                  => [minutes]
  | .timeZoneSync tz                   => [tz]
  | .currentRequest                    => []
  | .emergencyShutdown                 => []
  | .stationReboot                     => []
  | .syncError                         => []

/-- The command of a name with a list of fields; "a field not given is 0" (40_codec.md R110). -/
def Instr.ofFields : OpName → List Nat → Instr
  | .testStation, fs       => .testStation (fs.getD 0 0) (fs.getD 1 0) (fs.getD 2 0)
  | .programAddDel, fs     => .programAddDel (fs.getD 0 0) (fs.getD 1 0)
  | .programMainSetup, fs  =>
    .programMainSetup (fs.getD 0 0) (fs.getD 1 0) (fs.getD 2 0) (fs.getD 3 0) (fs.getD 4 0)
      (fs.getD 5 0)
  | .programDays, fs       => .programDays (fs.getD 0 0) (fs.getD 1 0)
  | .programStartTime, fs  =>
    .programStartTime (fs.getD 0 0) (fs.getD 1 0) (fs.getD 2 0) (fs.getD 3 0)
  | .programDuration, fs   => .programDuration (fs.getD 0 0) (fs.getD 1 0) (fs.getD 2 0)
  | .timeSync, fs          => .timeSync (fs.getD 0 0)
  | .timeZoneSync, fs      => .timeZoneSync (fs.getD 0 0)
  | .currentRequest, _     => .currentRequest
  | .emergencyShutdown, _  => .emergencyShutdown
  | .stationReboot, _      => .stationReboot
  | .syncError, _          => .syncError

end Sys2Proof
end

