-- ==== Sys2Proof/WellFormed.lean ====
section
/-! DEFINITION. What a caller of `encode` must keep ("caller must constrain field values to their bit
widths", 30_encoding.md R88) and what a construction must satisfy (70_reset_and_hazards.md R323). -/

namespace Sys2Proof

/-- Every field fits its width (the width columns of 30_encoding.md R76 to R83). -/
def Instr.wf : Instr → Bool
  | .testStation on sid dur => on < 2 && sid < 256 && dur < 65536
  | .programAddDel slot add => slot < 128 && add < 2
  | .programMainSetup slot en uw oe st pc =>
    slot < 128 && en < 2 && uw < 2 && oe < 4 && st < 4 && pc < 256
  | .programDays slot days => slot < 128 && days < 65536
  | .programStartTime slot ix t ty => slot < 128 && ix < 4 && t < 65536 && ty < 2
  | .programDuration slot sid dur => slot < 128 && sid < 256 && dur < 2048
  | .timeSync minutes => minutes < 134217728
  | .timeZoneSync tz => tz < 256
  | .currentRequest => true
  | .emergencyShutdown => true
  | .stationReboot => true
  | .syncError => true

/-- `OPC` gives the twelve names distinct values (30_encoding.md R72). -/
def OpcodeMap.injective (m : OpcodeMap) : Bool := decide (OpName.all.map m.get).Nodup

/-- A construction the spec admits: `K >= 1`, `W >= 1`, `S >= 0` (a natural) and an injective `OPC`
(70_reset_and_hazards.md R323). -/
def Config.valid (c : Config) : Bool := 1 ≤ c.k && 1 ≤ c.w && c.opc.injective

end Sys2Proof
end

