-- ==== Sys2Proof/Decode.lean ====
section
/-! DEFINITION. The CommandCodec unit: frames, decode, extract, slice, and the encoder (20_memory.md
R53, 30_encoding.md, 40_codec.md). Every operation is a total, pure function (40_codec.md R130). -/

namespace Sys2Proof

/-! ### Bit fields and frames -/

/-- `mask(n)` (00_scope.md R12). -/
def mask (n : Nat) : Nat := 2 ^ n - 1

/-- `v[hi:lo]`, the unsigned value of bits hi down to lo (00_scope.md R11). -/
def bits {n : Nat} (v : BitVec n) (hi lo : Nat) : Nat := v.toNat >>> lo % 2 ^ (hi + 1 - lo)

/-- `ToFrame(w)`, big-endian (20_memory.md R53). -/
def toFrame (w : Word) : Frame where
  o0 := w.extractLsb' 24 8
  o1 := w.extractLsb' 16 8
  o2 := w.extractLsb' 8 8
  o3 := w.extractLsb' 0 8

/-- `FromFrame(o0, o1, o2, o3)` (20_memory.md R53). -/
def fromFrame (f : Frame) : Word :=
  f.o0.setWidth 32 <<< 24 ||| f.o1.setWidth 32 <<< 16 ||| f.o2.setWidth 32 <<< 8 |||
    f.o3.setWidth 32

/-- The octets of a frame in wire order. -/
def Frame.octets (f : Frame) : List Octet := [f.o0, f.o1, f.o2, f.o3]

/-! ### decode and extract -/

/-- `w[31:27]` (30_encoding.md R70). -/
def opcodeOf (w : Word) : BitVec 5 := w.extractLsb' 27 5

/-- `w[26:0]` (30_encoding.md R70). -/
def payloadOf (w : Word) : BitVec 27 := w.extractLsb' 0 27

/-- `decode(w)`, which never fails (40_codec.md R113). -/
def decode (w : Word) : BitVec 5 × BitVec 27 := (opcodeOf w, payloadOf w)

/-- `extract(w, expected)` (40_codec.md R114). -/
def extract (w : Word) (expected : BitVec 5) : BitVec 27 :=
  if opcodeOf w = expected then payloadOf w else 0

/-! ### The opcode multiplexer and the payload slicers -/

/-- `Name(op)` where `Known(op)` holds, and none for an unknown opcode (30_encoding.md R73, R89). -/
def OpcodeMap.name? (m : OpcodeMap) (op : BitVec 5) : Option OpName :=
  OpName.all.find? fun n => m.get n == op

/-- The slicer arm of each name: the fields of payload `p` (40_codec.md R116 to R127). -/
def slicePayload (n : OpName) (p : BitVec 27) : Instr :=
  match n with
  | .testStation       => .testStation (bits p 0 0) (bits p 8 1) (bits p 24 9)
  | .programAddDel     => .programAddDel (bits p 6 0) (bits p 7 7)
  | .programMainSetup  =>
    .programMainSetup (bits p 6 0) (bits p 7 7) (bits p 8 8) (bits p 10 9) (bits p 12 11)
      (bits p 20 13)
  | .programDays       => .programDays (bits p 6 0) (bits p 22 7)
  | .programStartTime  =>
    .programStartTime (bits p 6 0) (bits p 8 7) (bits p 24 9) (bits p 25 25)
  | .programDuration   => .programDuration (bits p 6 0) (bits p 14 7) (bits p 25 15)
  | .timeSync          => .timeSync (bits p 26 0)
  | .timeZoneSync      => .timeZoneSync (bits p 7 0)
  | .currentRequest    => .currentRequest
  | .emergencyShutdown => .emergencyShutdown
  | .stationReboot     => .stationReboot
  | .syncError         => .syncError

/-- `slice(w)` (40_codec.md R115). -/
def slice (m : OpcodeMap) (w : Word) : Command :=
  match m.name? (opcodeOf w) with
  | some n => .known (slicePayload n (payloadOf w))
  | none   => .unknown (opcodeOf w) (payloadOf w)

/-- `days_lo` of a day mask (30_encoding.md R79). -/
def daysLo (dayMask : Nat) : Nat := dayMask % 2 ^ 8

/-- `days_hi` of a day mask (30_encoding.md R79). -/
def daysHi (dayMask : Nat) : Nat := dayMask >>> 8 % 2 ^ 8

/-- Why a string of octets is not a command of the table. Neither reason is an error of the block: a
frame always has 4 octets (20_memory.md R54), and an unknown opcode is dispatched with no action
(30_encoding.md R74). -/
inductive DecodeError where
  | notFourOctets
  | unknownOpcode (op : BitVec 5) (payload : BitVec 27)
deriving DecidableEq, Repr

/-- The command a string of received octets stands for, or the name of the reason it stands for none. -/
def decodeOctets (m : OpcodeMap) : List Octet → Except DecodeError Instr
  | [o0, o1, o2, o3] =>
    match slice m (fromFrame ⟨o0, o1, o2, o3⟩) with
    | .known i      => .ok i
    | .unknown op p => .error (.unknownOpcode op p)
  | _ => .error .notFourOctets

/-- The low `nbits` bits of `w` as one command word, the bits above them 0. -/
def tableWord (nbits w : Nat) : Word := BitVec.ofNat 32 (w % 2 ^ nbits)

/-- The instruction the decoder reads from an opcode-table row's bits, under the table's own `OPC`.
A row longer than a command word is none. -/
def decodeTableWord (nbits w : Nat) : Option Instr :=
  if nbits ≤ 32 then
    match decodeOctets .table (toFrame (tableWord nbits w)).octets with
    | .ok i    => some i
    | .error _ => none
  else none

/-! ### The encoder -/

/-- `(v & mask(n)) << lo` (40_codec.md R110). -/
def place (v n lo : Nat) : Word := BitVec.ofNat 32 (v % 2 ^ n) <<< lo

/-- `OPC(name) << 27` (40_codec.md R110). -/
def opcodeBits (m : OpcodeMap) (n : OpName) : Word := (m.get n).setWidth 32 <<< 27

/-- `encode(name, fields)` as the packer of each name (40_codec.md R116 to R127). -/
def encode (m : OpcodeMap) (i : Instr) : Word :=
  match i with
  | .testStation on sid dur =>
    opcodeBits m .testStation ||| place dur 16 9 ||| place sid 8 1 ||| place on 1 0
  | .programAddDel slot add =>
    opcodeBits m .programAddDel ||| place add 1 7 ||| place slot 7 0
  | .programMainSetup slot en uw oe st pc =>
    opcodeBits m .programMainSetup ||| place pc 8 13 ||| place st 2 11 ||| place oe 2 9 |||
      place uw 1 8 ||| place en 1 7 ||| place slot 7 0
  | .programDays slot days =>
    opcodeBits m .programDays ||| place days 16 7 ||| place slot 7 0
  | .programStartTime slot ix t ty =>
    opcodeBits m .programStartTime ||| place ty 1 25 ||| place t 16 9 ||| place ix 2 7 |||
      place slot 7 0
  | .programDuration slot sid dur =>
    opcodeBits m .programDuration ||| place dur 11 15 ||| place sid 8 7 ||| place slot 7 0
  | .timeSync minutes  => opcodeBits m .timeSync ||| place minutes 27 0
  | .timeZoneSync tz   => opcodeBits m .timeZoneSync ||| place tz 8 0
  | .currentRequest    => opcodeBits m .currentRequest
  | .emergencyShutdown => opcodeBits m .emergencyShutdown
  | .stationReboot     => opcodeBits m .stationReboot
  | .syncError         => opcodeBits m .syncError

/-- `encode_raw(op, payload)` (40_codec.md R111). -/
def encodeRaw (op payload : Nat) : Word :=
  BitVec.ofNat 32 (op % 2 ^ 5) <<< 27 ||| BitVec.ofNat 32 (payload % 2 ^ 27)

/-- The SyncError word, payload 0 (45_dispatcher_contract.md R276). -/
def syncErrorWord (m : OpcodeMap) : Word := opcodeBits m .syncError

/-- A command with each field masked to its width (40_codec.md R112). -/
def Instr.masked : Instr → Instr
  | .testStation on sid dur => .testStation (on % 2 ^ 1) (sid % 2 ^ 8) (dur % 2 ^ 16)
  | .programAddDel slot add => .programAddDel (slot % 2 ^ 7) (add % 2 ^ 1)
  | .programMainSetup slot en uw oe st pc =>
    .programMainSetup (slot % 2 ^ 7) (en % 2 ^ 1) (uw % 2 ^ 1) (oe % 2 ^ 2) (st % 2 ^ 2)
      (pc % 2 ^ 8)
  | .programDays slot days => .programDays (slot % 2 ^ 7) (days % 2 ^ 16)
  | .programStartTime slot ix t ty =>
    .programStartTime (slot % 2 ^ 7) (ix % 2 ^ 2) (t % 2 ^ 16) (ty % 2 ^ 1)
  | .programDuration slot sid dur => .programDuration (slot % 2 ^ 7) (sid % 2 ^ 8) (dur % 2 ^ 11)
  | .timeSync minutes  => .timeSync (minutes % 2 ^ 27)
  | .timeZoneSync tz   => .timeZoneSync (tz % 2 ^ 8)
  | .currentRequest    => .currentRequest
  | .emergencyShutdown => .emergencyShutdown
  | .stationReboot     => .stationReboot
  | .syncError         => .syncError

/-! ### The layouts as tables, and the generic codec over them -/

/-- The payload bits `(hi, lo)` of each field of a layout (30_encoding.md R76 to R87). -/
def layout : OpName → List (Nat × Nat)
  | .testStation       => [(0, 0), (8, 1), (24, 9)]
  | .programAddDel     => [(6, 0), (7, 7)]
  | .programMainSetup  => [(6, 0), (7, 7), (8, 8), (10, 9), (12, 11), (20, 13)]
  | .programDays       => [(6, 0), (22, 7)]
  | .programStartTime  => [(6, 0), (8, 7), (24, 9), (25, 25)]
  | .programDuration   => [(6, 0), (14, 7), (25, 15)]
  | .timeSync          => [(26, 0)]
  | .timeZoneSync      => [(7, 0)]
  | .currentRequest    => []
  | .emergencyShutdown => []
  | .stationReboot     => []
  | .syncError         => []

/-- The loop of `encode` over a layout and its fields (40_codec.md R110). -/
def packFields : List (Nat × Nat) → List Nat → Word → Word
  | (hi, lo) :: ls, v :: vs, w => packFields ls vs (w ||| place v (hi + 1 - lo) lo)
  | _, _, w => w

/-- `encode(name, fields)` as its rule writes it (40_codec.md R110). -/
def encodeFields (m : OpcodeMap) (n : OpName) (fs : List Nat) : Word :=
  packFields (layout n) fs (opcodeBits m n)

/-- The fields of payload `p` under a layout, as the rule of `slice` writes it (40_codec.md R115). -/
def sliceFields (n : OpName) (p : BitVec 27) : List Nat :=
  (layout n).map fun f => bits p f.1 f.2

/-- The payload bits a layout names. -/
def usedMask (n : OpName) : Word :=
  (layout n).foldl (fun w f => w ||| place (mask (f.1 + 1 - f.2)) (f.1 + 1 - f.2) f.2) 0

/-- `U`, the unused payload bits of a layout (30_encoding.md R75). -/
def unusedMask (n : OpName) : Word := BitVec.ofNat 32 (mask 27) &&& ~~~usedMask n

end Sys2Proof
end

