-- ==== Sys2Proof/Machine/State.lean ====
section
/-! DEFINITION. The state of one node: the block's registers (10_state.md R20), the state of its
environment that the rules read (45_dispatcher_contract.md R261, 42_link_tick.md R185), its
construction parameters, and the model's own bookkeeping. -/

namespace Sys2Proof.Machine

/-- The LinkState register's values (10_state.md R21). -/
inductive LinkState where
  | init
  | associate
  | buffering
  | send
  | receive
deriving DecidableEq, Repr

/-- The 3-bit code of a LinkState, which no port outputs (10_state.md R21). -/
def LinkState.code : LinkState → BitVec 3
  | .init      => 0
  | .associate => 1
  | .buffering => 2
  | .send      => 3
  | .receive   => 4

/-- The value of `tx_res` (10_state.md R25). -/
inductive TxResult where
  | ok
  | error
deriving DecidableEq, Repr

/-- The value of `rx_res` (10_state.md R26). -/
inductive RxResult where
  | frame (w : Word)
  | crcMismatch
  | otherError
deriving DecidableEq, Repr

/-- The kind of a TransportError (60_exceptions.md R290, class E1). -/
inductive TransportErrorKind where
  | txFail
  | crcMismatch
  | otherRx
deriving DecidableEq, Repr

/-- The output events of the block (42_link_tick.md R176). -/
inductive Event where
  | submit (f : Frame)
  | armReceive
  | storeDeleteAll
  | dispatch (w : Word)
  | protocolMismatch (sent got : Word)
  | commandLost (w : Word)
  | transportError (kind : TransportErrorKind)
deriving DecidableEq, Repr

/-- The code of an event (42_link_tick.md R176). -/
def Event.code : Event → Nat
  | .submit _             => 1
  | .armReceive           => 2
  | .storeDeleteAll       => 3
  | .dispatch _           => 4
  | .protocolMismatch _ _ => 5
  | .commandLost _        => 6
  | .transportError _     => 7

/-- The StagingProgram record (45_dispatcher_contract.md R261). -/
structure Staging where
  enabled      : Bool
  useWeather   : Bool
  oddEven      : BitVec 2
  scheduleType : BitVec 2
  days         : BitVec 16
  /-- `start_times[0..3]`. -/
  startTimes   : List (BitVec 16)
  stType       : Bool
  /-- `durations[0..N_STATIONS-1]`. -/
  durations    : List (BitVec 11)
deriving DecidableEq, Repr

/-- A call the dispatcher makes to a collaborator (45_dispatcher_contract.md R262 to R274). -/
inductive Call where
  /-- `ScheduleStore.upsert(slot, program)`. -/
  | upsert (slot : Nat) (program : Staging)
  /-- `ScheduleStore.delete(slot)`. -/
  | delete (slot : Nat)
  /-- `ScheduleStore.delete(ALL)`. -/
  | deleteAll
  /-- `ImmediateActions.run_zone_test(station, duration)`. -/
  | runZoneTest (station duration : Nat)
  /-- `ImmediateActions.request_reboot(cause)`. -/
  | requestReboot (cause : Nat)
  /-- `ClockSource.set_time(seconds)`. -/
  | setTime (seconds : Nat)
  /-- `ClockSource.set_timezone(code)`. -/
  | setTimezone (code : Nat)
  /-- `ClockSource.disable_ntp()`. -/
  | disableNtp
deriving DecidableEq, Repr

/-- One step of one agent (00_scope.md R7, 30_encoding.md R91). -/
inductive Input where
  /-- The tick agent evaluates the state machine at `now` (42_link_tick.md R170). -/
  | tick (now : Nat)
  /-- The host pushes a word (41_outbound_hold.md R150). -/
  | push (w : Word)
  /-- The transport delivers a transmit-done (20_memory.md R57). -/
  | txDone (r : TxResult)
  /-- The transport delivers a receive-done (20_memory.md R57). -/
  | rxDone (q : RxResult)
deriving DecidableEq, Repr

/-- The state of one node. -/
structure State where
  /-- The construction parameters (00_scope.md R9), written by no step (log 2). -/
  cfg              : Config
  /-- `ls` (10_state.md R21). -/
  ls               : LinkState
  /-- `associated` (10_state.md R23). -/
  associated       : Bool
  /-- `deadline`, the window timer (10_state.md R24). -/
  deadline         : Nat
  /-- `tx_flag` (10_state.md R25). -/
  txFlag           : Bool
  /-- `tx_res` (10_state.md R25). -/
  txRes            : TxResult
  /-- `rx_flag` (10_state.md R26). -/
  rxFlag           : Bool
  /-- `rx_res` (10_state.md R26). -/
  rxRes            : RxResult
  /-- `Hold[0..K-1]`, oldest first; empty in a Station (10_state.md R27). -/
  hold             : List Word
  /-- `count` (10_state.md R27). -/
  count            : Nat
  /-- `resp` (10_state.md R28). -/
  resp             : Word
  /-- `tx_pending` (10_state.md R29). -/
  txPending        : Bool
  /-- `settle_at` (10_state.md R29). -/
  settleAt         : Nat
  /-- `staging` (45_dispatcher_contract.md R261). -/
  staging          : Staging
  /-- `pending_sync_error` (45_dispatcher_contract.md R261). -/
  pendingSyncError : Bool
  /-- `reboot_requested` (45_dispatcher_contract.md R261). -/
  rebootRequested  : Bool
  /-- The command register, the dispatcher's own copy of the word it works on
  (45_dispatcher_contract.md R277). -/
  cmdReg           : Word
  /-- `ScheduleStore.program_count()` of this node's store (45_dispatcher_contract.md R264; log 8). -/
  storeCount       : Nat
  /-- The transport's receiver is armed (42_link_tick.md R185 item 2). -/
  armed            : Bool
  /-- The transmissions submitted and not reported done (42_link_tick.md R185 item 1). -/
  inFlight         : Nat
  /-- The `now` of the last tick, "bookkeeping of the model" (42_link_tick.md R175). -/
  lastNow          : Nat
  /-- The agents' next steps, in order (log 1). -/
  inputs           : List Input
  /-- The events the last step emitted, in order (00_scope.md R12; log 11). -/
  out              : List Event
  /-- The collaborator calls the last step made, in order (log 11). -/
  calls            : List Call
  /-- How many free values have been read (log 9). -/
  freeIndex        : Nat
deriving DecidableEq, Repr

/-- Why the machine stops. No error of the block is fatal (60_exceptions.md R297), so both reasons stand
only for states that 10_state.md R34 excludes and no rule covers (log 14). -/
inductive Fault where
  /-- Raised by a Remote's `Receive` that needs the top of an empty hold (10_state.md R34 item 2).
  Safe: no reachable state raises it. -/
  | emptyHold
  /-- Raised by a Station's tick in `Buffering` (10_state.md R34 item 3). Safe: no reachable state
  raises it. -/
  | noRule
deriving DecidableEq, Repr

/-- Why a step is refused: the spec has no such step. -/
inductive Refusal where
  /-- Raised by `exec` for an instruction without a meaning. Safe. -/
  | notModelled (mnemonic : String)
  /-- Raised by a tick whose `now` is less than the previous tick's (42_link_tick.md R171). Safe. -/
  | timeBackwards
  /-- Raised by a host push on a Station (41_outbound_hold.md R156). Safe. -/
  | pushOnStation
  /-- Raised by ProgramDuration with `station_id >= N_STATIONS`: "the dispatcher model has no step for
  it" (93_implementation_defined.md I9). Safe. -/
  | durationOutOfRange
  /-- Raised by a construction with `K < 1`, `W < 1` or an `OPC` that is not injective
  (70_reset_and_hazards.md R323). Safe. -/
  | invalidConstruction
  /-- Raised only by a move of the two-node system that the transport or the channel never makes: a
  delivery to a receiver that is not armed, a completion with nothing in flight, a frame that is not
  on the air (42_link_tick.md R185). Safe. -/
  | channelForbids
deriving DecidableEq, Repr

/-- The registers whose reset value the spec leaves unspecified (70_reset_and_hazards.md R320). -/
structure Unspecified where
  deadline : Nat
  txRes    : TxResult
  rxRes    : RxResult
  hold     : List Word
  resp     : Word
  settleAt : Nat
deriving DecidableEq, Repr

/-- DESIGN CHOICE (log 6): the value the model names for each of them. -/
def Unspecified.zero : Unspecified where
  deadline := 0
  txRes    := .ok
  rxRes    := .frame 0
  hold     := []
  resp     := 0
  settleAt := 0

/-- DESIGN CHOICE (log 7): the staging record at reset, which the source does not state
(91_not_in_source.md N9). -/
def Staging.blank (nStations : Nat) : Staging where
  enabled      := false
  useWeather   := false
  oddEven      := 0
  scheduleType := 0
  days         := 0
  startTimes   := [0, 0, 0, 0]
  stType       := false
  durations    := List.replicate nStations 0

/-- The state right after the construction of a node (70_reset_and_hazards.md R320), for each
configuration and each value of the unspecified registers. A Remote's hold has K entries and a
Station's none. -/
def State.resetWith (c : Config) (u : Unspecified) : State where
  cfg              := c
  ls               := .init
  associated       := c.assocReset
  deadline         := u.deadline
  txFlag           := false
  txRes            := u.txRes
  rxFlag           := false
  rxRes            := u.rxRes
  hold             := if c.role = .remote then (u.hold ++ List.replicate c.k 0).take c.k else []
  count            := 0
  resp             := u.resp
  txPending        := false
  settleAt         := u.settleAt
  staging          := .blank c.nStations
  pendingSyncError := false
  rebootRequested  := false
  cmdReg           := 0
  storeCount       := 0
  armed            := false
  inFlight         := 0
  lastNow          := 0
  inputs           := []
  out              := []
  calls            := []
  freeIndex        := 0

/-- The machine after reset: the configuration of the test vectors (log 3) and the named values of the
unspecified registers (log 6). -/
def State.reset : State := .resetWith .vectors .zero

/-- The construction of a node, refused where a parameter breaks 70_reset_and_hazards.md R323. -/
def State.construct (c : Config) (u : Unspecified) : Host.Outcome State Fault Refusal :=
  if c.valid then .next (.resetWith c u) else .refused .invalidConstruction

end Sys2Proof.Machine
end

