-- ==== Sys2Proof/Machine/Flags.lean ====
section
/-! DEFINITION. The block's flags: the two event cells, their deliveries and their drains. -/

namespace Sys2Proof.Machine

/-- A transmit-done: `tx_res <- r; tx_flag <- 1`, over whatever the cell held (20_memory.md R57). One
transmission of the transport ends (42_link_tick.md R185 item 1; log 13). -/
def deliverTx (r : TxResult) (s : State) : State :=
  { s with txRes := r, txFlag := true, inFlight := s.inFlight - 1 }

/-- A receive-done: `rx_res <- q; rx_flag <- 1`, over whatever the cell held (20_memory.md R57). The
arm ends (42_link_tick.md R185 item 2; log 13). -/
def deliverRx (q : RxResult) (s : State) : State :=
  { s with rxRes := q, rxFlag := true, armed := false }

/-- What `DrainTx()` returns (42_link_tick.md R178). -/
def pendingTx (s : State) : Option TxResult := if s.txFlag then some s.txRes else none

/-- What `DrainTx()` leaves (42_link_tick.md R178). -/
def drainTx (s : State) : State := { s with txFlag := false }

/-- What `DrainRx()` returns (42_link_tick.md R179). -/
def pendingRx (s : State) : Option RxResult := if s.rxFlag then some s.rxRes else none

/-- What `DrainRx()` leaves (42_link_tick.md R179). -/
def drainRx (s : State) : State := { s with rxFlag := false }

end Sys2Proof.Machine
end

