-- ==== Sys2Proof/Machine/Ops.lean ====
section
/-! DEFINITION. The named operations the rules are written in: events and calls, the hold, the
transport port, the ScheduleStore's port, and the frame of one dispatch. The block has no exception
entry and no return from one (60_exceptions.md R296), so there is no operation for either. -/

namespace Sys2Proof.Machine

/-- Goes on with the next state, and passes a fault or a refusal through. -/
def andThen {α β : Type} (o : Host.Outcome α Fault Refusal)
    (f : α → Host.Outcome β Fault Refusal) : Host.Outcome β Fault Refusal :=
  match o with
  | .next a    => f a
  | .fault r   => .fault r
  | .refused r => .refused r

/-- `emit E` (00_scope.md R12). -/
def emit (e : Event) (s : State) : State := { s with out := s.out ++ [e] }

/-- A call to a collaborator (45_dispatcher_contract.md). -/
def call (c : Call) (s : State) : State := { s with calls := s.calls ++ [c] }

/-- `ls <- l`, the block's only control transfer (00_scope.md R12, 10_state.md R31). -/
def goTo (l : LinkState) (s : State) : State := { s with ls := l }

/-- `deadline <- t` (10_state.md R24). -/
def setTimer (t : Nat) (s : State) : State := { s with deadline := t }

/-- The window timer has expired: `now >= deadline` (10_state.md R24). -/
abbrev expired (now : Nat) (s : State) : Prop := s.deadline ≤ now

/-! ### The OutboundHold -/

/-- `HoldRead(i)` (20_memory.md R50). -/
def holdRead (i : Nat) (s : State) : Word := s.hold.getD i 0

/-- `HoldWrite(i, w)` (20_memory.md R50). -/
def holdWrite (i : Nat) (w : Word) (s : State) : State := { s with hold := s.hold.set i w }

/-- `size()` (41_outbound_hold.md R155). -/
def size (s : State) : Nat := s.count

/-- `push(w)`; a full hold drops the word without a signal (41_outbound_hold.md R150, R151). -/
def pushHold (w : Word) (s : State) : State :=
  if s.count < s.cfg.k then { holdWrite s.count w s with count := s.count + 1 } else s

/-- `peek_top()` (41_outbound_hold.md R152). -/
def peekTop (s : State) : Option Word :=
  if s.count = 0 then none else some (holdRead (s.count - 1) s)

/-- `pop_top()`; the popped entry's storage is not cleared (41_outbound_hold.md R153, R154). -/
def popTop (s : State) : State := if 0 < s.count then { s with count := s.count - 1 } else s

/-- The words held, oldest first (10_state.md R27). -/
def heldWords (s : State) : List Word := s.hold.take s.count

/-! ### The TransportPort -/

/-- `tx_flag <- 0; emit Submit(ToFrame(w))` (42_link_tick.md R174, 44_link_station.md R236). -/
def submit (w : Word) (s : State) : State :=
  emit (.submit (toFrame w)) { s with txFlag := false, inFlight := s.inFlight + 1 }

/-- `rx_flag <- 0; emit ArmReceive`; arming an armed receiver leaves it armed once
(42_link_tick.md R174, R185 item 2). -/
def armReceiver (s : State) : State := emit .armReceive { s with rxFlag := false, armed := true }

/-- The kind reported for a receive completion that carries no frame (42_link_tick.md R180); no rule
applies it to a frame. -/
def rxErrorKind : RxResult → TransportErrorKind
  | .crcMismatch => .crcMismatch
  | .otherError  => .otherRx
  | .frame _     => .otherRx

/-- The report of a transmit completion: an event only for an error (42_link_tick.md R181). -/
def reportTx (r : TxResult) (s : State) : State :=
  match r with
  | .ok    => s
  | .error => emit (.transportError .txFail) s

/-! ### The ScheduleStore, as the test store of 95_test_vectors.md (log 8) -/

/-- `upsert(slot, staging)`: appends at the count, replaces below it, and leaves a free count beyond
it (log 9). -/
def storeUpsert (slot : Nat) (s : State) : State :=
  let t := call (.upsert slot s.staging) s
  if slot < s.storeCount then t
  else if slot = s.storeCount then { t with storeCount := s.storeCount + 1 }
  else { t with
    storeCount := Config.upsertBeyondCount s.freeIndex s.storeCount slot
    freeIndex  := s.freeIndex + 1 }

/-- `delete(slot)` of a stored slot. -/
def storeDelete (slot : Nat) (s : State) : State :=
  { call (.delete slot) s with storeCount := s.storeCount - 1 }

/-- `delete(ALL)`. -/
def storeDeleteAll (s : State) : State := { call .deleteAll s with storeCount := 0 }

/-- `Desync()` (45_dispatcher_contract.md R262). -/
def desync (s : State) : State := { storeDeleteAll s with pendingSyncError := true }

/-! ### The frame of one dispatch -/

/-- The word `Dispatch` returns (45_dispatcher_contract.md R276). -/
def responseWord (s : State) : Word :=
  if s.pendingSyncError then syncErrorWord s.cfg.opc else s.cmdReg

/-- The end of a dispatch: the response, and the command register cleared unless SyncError overwrote
it (45_dispatcher_contract.md R276, R277; DEDUCED, log 10). -/
def respond (s : State) : State :=
  { s with
    resp   := responseWord s
    cmdReg := if s.pendingSyncError then syncErrorWord s.cfg.opc else 0 }

/-- `pending_sync_error <- 0`, the start of a dispatch (45_dispatcher_contract.md R276). -/
def clearPending (s : State) : State := { s with pendingSyncError := false }

/-- `Dispatch(w)` with `w` in the command register, around one branch (45_dispatcher_contract.md
R276). -/
def dispatchWith (branch : State → Host.Outcome State Fault Refusal) (s : State) :
    Host.Outcome State Fault Refusal :=
  andThen (branch (clearPending s)) fun t => .next (respond t)

end Sys2Proof.Machine
end

