-- ==== Sys2Proof/Machine/Remote.lean ====
section
/-! DEFINITION. `RemoteTransition(now)` (43_link_remote.md). A transition answers the state and the
local flag `rearm` (42_link_tick.md R172). -/

namespace Sys2Proof.Machine

/-- Remote, `Init` (43_link_remote.md R200). -/
def remoteInit (s : State) : State × Bool :=
  (if s.associated then goTo .buffering s else goTo .associate s, false)

/-- Remote, `Associate` (43_link_remote.md R201). -/
def remoteAssociate (s : State) : State × Bool :=
  (if s.associated then goTo .buffering s else s, false)

/-- Remote, `Buffering`: the backoff check follows the reset of the timer to `now`, as the source has
it (43_link_remote.md R202, R203). -/
def remoteBuffering (now : Nat) (s : State) : State × Bool :=
  let t := setTimer now s
  (if expired now t ∧ 0 < size t then goTo .send (setTimer (now + t.cfg.w) t) else t, false)

/-- Remote, `Send` (43_link_remote.md R204, R205, R206). -/
def remoteSend (now : Nat) (s : State) : State × Bool :=
  match pendingTx s with
  | some r => (goTo .receive (setTimer (now + s.cfg.w) (reportTx r (drainTx s))), false)
  | none   => (if expired now s then goTo .receive s else s, false)

/-- The end of a Remote's receive window: the top is popped and the timer is reset to W
(43_link_remote.md R207, R209). -/
def closeWindow (now : Nat) (s : State) : State :=
  goTo .buffering (setTimer (now + s.cfg.w) (popTop s))

/-- The body of a Remote's receive expiry (43_link_remote.md R209). -/
def remoteExpire (now : Nat) (s : State) : Host.Outcome (State × Bool) Fault Refusal :=
  match peekTop s with
  | some c => .next (closeWindow now (emit (.commandLost c) s), false)
  | none   => .fault .emptyHold

/-- A SyncError response purges the Remote's own store (43_link_remote.md R207, 42_link_tick.md R183; log 25). -/
def purgeOnSyncError (r : Word) (s : State) : State :=
  if opcodeOf r = s.cfg.opc.syncError then { emit .storeDeleteAll s with storeCount := 0 } else s

/-- A response that differs from the top is reported (43_link_remote.md R207). -/
def reportMismatch (c r : Word) (s : State) : State :=
  if r = c then s else emit (.protocolMismatch c r) s

/-- The body of a Remote's valid response `r` (43_link_remote.md R207). -/
def remoteResponse (now : Nat) (r : Word) (s : State) :
    Host.Outcome (State × Bool) Fault Refusal :=
  match peekTop s with
  | some c => .next (closeWindow now (reportMismatch c r (purgeOnSyncError r s)), false)
  | none   => .fault .emptyHold

/-- Remote, `Receive` (43_link_remote.md R207 to R210). -/
def remoteReceive (now : Nat) (s : State) : Host.Outcome (State × Bool) Fault Refusal :=
  match pendingRx s with
  | some (.frame r) => remoteResponse now r (drainRx s)
  | some q          =>
    let t := emit (.transportError (rxErrorKind q)) (drainRx s)
    match s.cfg.rxErrorPolicy with
    | .rearm  => .next (t, true)
    | .expire => remoteExpire now t
  | none            => if expired now s then remoteExpire now s else .next (s, false)

/-- `RemoteTransition(now)` (42_link_tick.md R172). -/
def remoteTransition (now : Nat) (s : State) : Host.Outcome (State × Bool) Fault Refusal :=
  match s.ls with
  | .init      => .next (remoteInit s)
  | .associate => .next (remoteAssociate s)
  | .buffering => .next (remoteBuffering now s)
  | .send      => .next (remoteSend now s)
  | .receive   => remoteReceive now s

end Sys2Proof.Machine
end

