-- ==== Sys2Proof/Machine/Operands.lean ====
section
/-! DEFINITION. How the dispatcher's branches read the fields of a command (00_scope.md R13,
45_dispatcher_contract.md). -/

namespace Sys2Proof.Machine

/-- A 1-bit field as a boolean, 1 = true (00_scope.md R13). -/
def flagField (v : Nat) : Bool := v % 2 == 1

/-- A field as the 2-bit number the staging record holds (45_dispatcher_contract.md R261). -/
def twoBits (v : Nat) : BitVec 2 := BitVec.ofNat 2 v

/-- The start-time slot, one of 4 (45_dispatcher_contract.md R268). -/
def startSlot (stIndex : Nat) : Nat := stIndex % 4

/-- The seconds of TimeSync, on unbounded naturals (45_dispatcher_contract.md R270). -/
def secondsOf (minutes : Nat) : Nat := minutes * 60

/-- The place of a station in the duration array, none where the array has no such place
(93_implementation_defined.md I9; log 15). -/
def durationSlot (c : Config) (stationId : Nat) : Option Nat :=
  if stationId < c.nStations then some stationId else none

end Sys2Proof.Machine
end

