-- ==== Sys2Proof/Machine/Clock.lean ====
section
/-! DEFINITION. The meanings of the commands that set the clock (45_dispatcher_contract.md R270,
R271). -/

namespace Sys2Proof.Machine

/-- TimeSync (45_dispatcher_contract.md R270). -/
def execTimeSync (minutes : Nat) (s : State) : Host.Outcome State Fault Refusal :=
  dispatchWith (fun t => .next (call (.setTime (secondsOf minutes)) t)) s

/-- TimeZoneSync (45_dispatcher_contract.md R271). -/
def execTimeZoneSync (tzCode : Nat) (s : State) : Host.Outcome State Fault Refusal :=
  dispatchWith (fun t => .next (call .disableNtp (call (.setTimezone tzCode) t))) s

end Sys2Proof.Machine
end

