-- ==== Sys2Proof/Machine/Immediate.lean ====
section
/-! DEFINITION. The meanings of the immediate commands, of the commands with no action
(45_dispatcher_contract.md R263, R272 to R275), and of a word with an unknown opcode. -/

namespace Sys2Proof.Machine

/-- TestStation; the branch does not read `on` (45_dispatcher_contract.md R263). -/
def execTestStation (_on stationId durationS : Nat) (s : State) :
    Host.Outcome State Fault Refusal :=
  dispatchWith (fun t => .next (call (.runZoneTest stationId durationS) t)) s

/-- CurrentRequest: no action (45_dispatcher_contract.md R272). -/
def execCurrentRequest (s : State) : Host.Outcome State Fault Refusal :=
  dispatchWith (fun t => .next t) s

/-- EmergencyShutdown: no action (45_dispatcher_contract.md R273). -/
def execEmergencyShutdown (s : State) : Host.Outcome State Fault Refusal :=
  dispatchWith (fun t => .next t) s

/-- StationReboot (45_dispatcher_contract.md R274). -/
def execStationReboot (s : State) : Host.Outcome State Fault Refusal :=
  dispatchWith (fun t =>
    .next (call (.requestReboot t.cfg.rebootCause) { t with rebootRequested := true })) s

/-- A received SyncError: no action (45_dispatcher_contract.md R275). -/
def execSyncError (s : State) : Host.Outcome State Fault Refusal :=
  dispatchWith (fun t => .next t) s

/-- A word with an unknown opcode: no action (45_dispatcher_contract.md R275, 30_encoding.md R74). -/
def execUnknown (s : State) : Host.Outcome State Fault Refusal :=
  dispatchWith (fun t => .next t) s

end Sys2Proof.Machine
end

