-- ==== Sys2Proof/Machine/Program.lean ====
section
/-! DEFINITION. The meanings of the commands that edit the schedule (45_dispatcher_contract.md R264 to
R269). -/

namespace Sys2Proof.Machine

/-- ProgramAddDel: add appends at the count, delete removes below it, and any other slot is a
desynchronisation (45_dispatcher_contract.md R264, R265). -/
def execProgramAddDel (slotId add : Nat) (s : State) : Host.Outcome State Fault Refusal :=
  dispatchWith (fun t =>
    if flagField add then
      if slotId = t.storeCount then .next (storeUpsert slotId t) else .next (desync t)
    else
      if slotId < t.storeCount then .next (storeDelete slotId t) else .next (desync t)) s

/-- ProgramMainSetup (45_dispatcher_contract.md R266). `program_count` is read by no branch. -/
def execProgramMainSetup (slotId enabled useWeather oddEven scheduleType _programCount : Nat)
    (s : State) : Host.Outcome State Fault Refusal :=
  dispatchWith (fun t => .next (storeUpsert slotId { t with staging := { t.staging with
    enabled      := flagField enabled
    useWeather   := flagField useWeather
    oddEven      := twoBits oddEven
    scheduleType := twoBits scheduleType } })) s

/-- ProgramDays (45_dispatcher_contract.md R267). -/
def execProgramDays (_slotId dayMask : Nat) (s : State) : Host.Outcome State Fault Refusal :=
  dispatchWith (fun t => .next { t with staging := { t.staging with
    days := BitVec.ofNat 16 dayMask } }) s

/-- ProgramStartTime (45_dispatcher_contract.md R268). -/
def execProgramStartTime (_slotId stIndex startTime stType : Nat) (s : State) :
    Host.Outcome State Fault Refusal :=
  dispatchWith (fun t => .next { t with staging := { t.staging with
    startTimes := t.staging.startTimes.set (startSlot stIndex) (BitVec.ofNat 16 startTime)
    stType     := flagField stType } }) s

/-- ProgramDuration (45_dispatcher_contract.md R269), refused for a station the array has no place for
(93_implementation_defined.md I9; log 15). -/
def execProgramDuration (_slotId stationId durationMin : Nat) (s : State) :
    Host.Outcome State Fault Refusal :=
  dispatchWith (fun t =>
    match durationSlot t.cfg stationId with
    | some j => .next { t with staging := { t.staging with
        durations := t.staging.durations.set j (BitVec.ofNat 11 durationMin) } }
    | none   => .refused .durationOutOfRange) s

end Sys2Proof.Machine
end

