-- ==== Sys2Proof/Machine/Dispatch.lean ====
section
/-! DEFINITION. The dispatcher's branch for each command (45_dispatcher_contract.md R260, R276). -/

namespace Sys2Proof.Machine

/-- What a Station's dispatcher does with the command in its command register: the branch's effect and
the response word (45_dispatcher_contract.md R276; log 5). -/
def exec (i : Instr) (s : State) : Host.Outcome State Fault Refusal :=
  match i with
  | .testStation on sid dur => Sys2Proof.Machine.execTestStation on sid dur s
  | .programAddDel slot add => Sys2Proof.Machine.execProgramAddDel slot add s
  | .programMainSetup slot en uw oe st pc => Sys2Proof.Machine.execProgramMainSetup slot en uw oe st pc s
  | .programDays slot days => Sys2Proof.Machine.execProgramDays slot days s
  | .programStartTime slot ix t ty => Sys2Proof.Machine.execProgramStartTime slot ix t ty s
  | .programDuration slot sid dur => Sys2Proof.Machine.execProgramDuration slot sid dur s
  | .timeSync minutes => Sys2Proof.Machine.execTimeSync minutes s
  | .timeZoneSync tz => Sys2Proof.Machine.execTimeZoneSync tz s
  | .currentRequest => Sys2Proof.Machine.execCurrentRequest s
  | .emergencyShutdown => Sys2Proof.Machine.execEmergencyShutdown s
  | .stationReboot => Sys2Proof.Machine.execStationReboot s
  | .syncError => Sys2Proof.Machine.execSyncError s

end Sys2Proof.Machine
end

