-- ==== Sys2Proof/Machine/Station.lean ====
section
/-! DEFINITION. `StationTransition(now)` and the settle action (44_link_station.md). -/

namespace Sys2Proof.Machine

/-- Station, `Init` (44_link_station.md R230). -/
def stationInit (s : State) : State × Bool :=
  (if s.associated then goTo .receive s else goTo .associate s, false)

/-- Station, `Associate` (44_link_station.md R231). -/
def stationAssociate (s : State) : State × Bool :=
  (if s.associated then goTo .receive s else s, false)

/-- `emit Dispatch(w)`, and the word into the dispatcher's command register (44_link_station.md R233,
45_dispatcher_contract.md R277). -/
def beginDispatch (w : Word) (s : State) : State := emit (.dispatch w) { s with cmdReg := w }

/-- The dispatcher's run on a received word: the branch of `slice(w)` (45_dispatcher_contract.md R260,
R276). -/
def runDispatch (w : Word) (s : State) : Host.Outcome State Fault Refusal :=
  match slice s.cfg.opc w with
  | .known i     => exec i (beginDispatch w s)
  | .unknown _ _ => execUnknown (beginDispatch w s)

/-- The Station's move to `Send` after a dispatch (44_link_station.md R233). -/
def beginResponse (now : Nat) (s : State) : State :=
  { s with
    ls        := .send
    deadline  := now + s.cfg.w
    settleAt  := now + s.cfg.s
    txPending := true }

/-- Station, `Receive` (44_link_station.md R232, R233, R234). -/
def stationReceive (now : Nat) (s : State) : Host.Outcome (State × Bool) Fault Refusal :=
  match pendingRx s with
  | some (.frame w) =>
    andThen (runDispatch w (drainRx s)) fun t => .next (beginResponse now t, false)
  | some q          => .next (emit (.transportError (rxErrorKind q)) (drainRx s), true)
  | none            => .next (s, false)

/-- `tx_pending <- 0`: the response is submitted, or abandoned unsent (44_link_station.md R235, R236). -/
def dropResponse (s : State) : State := { s with txPending := false }

/-- Station, `Send`: the transmit cell is not drained while the response is unsent
(44_link_station.md R235, R237). -/
def stationSend (now : Nat) (s : State) : State × Bool :=
  match (if s.txPending then none else pendingTx s) with
  | some r => (goTo .receive (reportTx r (drainTx s)), false)
  | none   => (if expired now s then goTo .receive (dropResponse s) else s, false)

/-- `StationTransition(now)` (42_link_tick.md R172). A Station is never in `Buffering`, and no rule
covers it (10_state.md R34 item 3; log 14). -/
def stationTransition (now : Nat) (s : State) : Host.Outcome (State × Bool) Fault Refusal :=
  match s.ls with
  | .init      => .next (stationInit s)
  | .associate => .next (stationAssociate s)
  | .buffering => .fault .noRule
  | .send      => .next (stationSend now s)
  | .receive   => stationReceive now s

/-- `SettleAction(now)` (44_link_station.md R236). -/
def settleAction (now : Nat) (s : State) : State :=
  if s.txPending ∧ s.settleAt ≤ now then dropResponse (submit s.resp s) else s

end Sys2Proof.Machine
end

