-- ==== Sys2Proof/Machine/Tick.lean ====
section
/-! DEFINITION. The tick: the transition phase, then the action phase (42_link_tick.md R170 to R175). -/

namespace Sys2Proof.Machine

/-- The transition rule selected by the role (42_link_tick.md R172). -/
def transition (now : Nat) (s : State) : Host.Outcome (State × Bool) Fault Refusal :=
  match s.cfg.role with
  | .remote  => remoteTransition now s
  | .station => stationTransition now s

/-- `Entry(ROLE, ls)` (42_link_tick.md R174). A Remote's `Send` submits the top, which is never empty
there. -/
def entryAction (s : State) : State :=
  match s.cfg.role, s.ls with
  | .remote, .send =>
    match peekTop s with
    | some w => submit w s
    | none   => s
  | _, .receive => armReceiver s
  | _, _        => s

/-- The action phase, with `old` the LinkState at the start of the tick (42_link_tick.md R173). -/
def actionPhase (now : Nat) (old : LinkState) (rearm : Bool) (s : State) : State :=
  let t := if s.ls ≠ old ∨ rearm then entryAction s else s
  if t.cfg.role = .station ∧ t.ls = .send then settleAction now t else t

/-- `last_now <- now` (42_link_tick.md R175; log 12). -/
def stamp (now : Nat) (s : State) : State := { s with lastNow := now }

/-- `Tick(now)`, refused when `now` is less than the previous tick's (42_link_tick.md R171, R175). -/
def tick (now : Nat) (s : State) : Host.Outcome State Fault Refusal :=
  if now < s.lastNow then .refused .timeBackwards
  else
    andThen (transition now s) fun p =>
      .next (stamp now (actionPhase now s.ls p.2 p.1))

/-- A host push, which a Station does not have (41_outbound_hold.md R156). -/
def hostPush (w : Word) (s : State) : Host.Outcome State Fault Refusal :=
  match s.cfg.role with
  | .remote  => .next (pushHold w s)
  | .station => .refused .pushOnStation

/-- One step of one agent (00_scope.md R7). -/
def applyInput (i : Input) (s : State) : Host.Outcome State Fault Refusal :=
  match i with
  | .tick now => tick now s
  | .push w   => hostPush w s
  | .txDone r => .next (deliverTx r s)
  | .rxDone q => .next (deliverRx q s)

end Sys2Proof.Machine
end

