-- ==== Sys2Proof/Machine/Step.lean ====
section
/-! DEFINITION. One step of the machine: the next agent's step. -/

namespace Sys2Proof.Machine

/-- The start of a step: the step's own trace is empty (00_scope.md R12; log 11). -/
def clearTrace (s : State) : State := { s with out := [], calls := [] }

/-- The agents' steps that remain after the head of `inputs` (log 1). -/
def setInputs (rest : List Input) (s : State) : State := { s with inputs := rest }

/-- One step: the agent at the head of `inputs` acts; with none placed, nothing happens (log 1). -/
def step (s : State) : Host.Outcome State Fault Refusal :=
  match s.inputs with
  | []        => .next (clearTrace s)
  | i :: rest => applyInput i (clearTrace (setInputs rest s))

/-- `s` as a Station in `Receive` that holds the command word of an opcode-table row as a received
frame, under the table's own `OPC`, with a tick as its next step, so that the very next step
dispatches that word (log 4). -/
def State.withFetchWord (s : State) (nbits w : Nat) : State :=
  { s with
    cfg    := { s.cfg with role := .station, opc := .table }
    ls     := .receive
    rxFlag := true
    rxRes  := .frame (tableWord nbits w)
    inputs := .tick s.lastNow :: s.inputs }

end Sys2Proof.Machine
end

