-- ==== Sys2Proof/Machine/Errors.lean ====
section
/-! DEFINITION. The four error classes, their codes, and which of them a step raises (60_exceptions.md
R290). The classes are observations: no rule reads them, and they are no field of State. -/

namespace Sys2Proof.Machine

/-- The classes of the error taxonomy (60_exceptions.md R290). -/
inductive ErrorClass where
  /-- E1, TransportError: a completion that reports an error (R291). -/
  | transport
  /-- E2, ProtocolError: a response that differs from the top word (R292). -/
  | protocol
  /-- E3, ConsistencyError: a slot inconsistent with the store's program count (R293). -/
  | consistency
  /-- E4, CapacityError: a push on a full hold (R294). -/
  | capacity
deriving DecidableEq, Repr

/-- The number n of the class's code E<n> (60_exceptions.md R290; log 21). -/
def ErrorClass.code : ErrorClass → Nat
  | .transport   => 1
  | .protocol    => 2
  | .consistency => 3
  | .capacity    => 4

/-- The class an event reports, if it reports one (60_exceptions.md R290). A lost command is of no class
(R295). -/
def Event.errorClass : Event → Option ErrorClass
  | .submit _             => none
  | .armReceive           => none
  | .storeDeleteAll       => none
  | .dispatch _           => none
  | .protocolMismatch _ _ => some .protocol
  | .commandLost _        => none
  | .transportError _     => some .transport

/-- The class a dispatcher's call shows, if it shows one: only `Desync()` deletes every program
(45_dispatcher_contract.md R262). -/
def Call.errorClass : Call → Option ErrorClass
  | .upsert _ _      => none
  | .delete _        => none
  | .deleteAll       => some .consistency
  | .runZoneTest _ _ => none
  | .requestReboot _ => none
  | .setTime _       => none
  | .setTimezone _   => none
  | .disableNtp      => none

/-- The next step is a push that a full hold drops (41_outbound_hold.md R151). -/
def dropsPush (s : State) : Bool :=
  match s.inputs with
  | .push _ :: _ => s.cfg.k ≤ s.count
  | _            => false

/-- The errors of the step from `s` to `t`, each with its class: those its events report, those its
calls show, and a dropped push, which no port shows (60_exceptions.md R290, R294, R298). -/
def stepErrors (s t : State) : List ErrorClass :=
  t.out.filterMap Event.errorClass ++ t.calls.filterMap Call.errorClass ++
    if dropsPush s then [.capacity] else []

end Sys2Proof.Machine
end

