-- ==== Sys2Proof/Machine/System.lean ====
section
/-! DEFINITION. The system of one Remote node and one Station node, which share no state and are
connected only by the radio channel (60_exceptions.md R308), with the transport's obligations and
liberties of 42_link_tick.md R185. DEDUCED (log 23). -/

namespace Sys2Proof.Machine

/-- Two nodes and the words on the air to each of them, oldest first. -/
structure System where
  remote    : State
  station   : State
  toRemote  : List Word
  toStation : List Word
deriving DecidableEq, Repr

/-- What becomes of a frame on the air (42_link_tick.md R185 item 3). -/
inductive Delivery where
  /-- It arrives with the word that was submitted. -/
  | intact
  /-- It arrives as `CrcMismatch`. -/
  | crcMismatch
  /-- It arrives as `OtherError`. -/
  | otherError
  /-- It does not arrive. -/
  | lost
deriving DecidableEq, Repr

/-- One step of one agent of one node, or of the channel. -/
inductive Move where
  | tick (r : Role) (now : Nat)
  | push (w : Word)
  | txDone (r : Role) (q : TxResult)
  /-- The channel settles the `k`-th frame on the air to node `r`. -/
  | air (r : Role) (k : Nat) (d : Delivery)
deriving DecidableEq, Repr

/-- The node of a role. -/
def System.node (x : System) : Role → State
  | .remote  => x.remote
  | .station => x.station

/-- The words on the air to a node. -/
def System.airTo (x : System) : Role → List Word
  | .remote  => x.toRemote
  | .station => x.toStation

/-- The words a step submitted. -/
def submitted : List Event → List Word
  | []              => []
  | .submit f :: es => fromFrame f :: submitted es
  | _ :: es         => submitted es

/-- The system after node `r` became `s`: what `s` submitted in its last step goes on the air to its
peer. -/
def System.update (x : System) (r : Role) (s : State) : System :=
  match r with
  | .remote  => { x with remote := s, toStation := x.toStation ++ submitted s.out }
  | .station => { x with station := s, toRemote := x.toRemote ++ submitted s.out }

/-- Takes the `k`-th frame to node `r` off the air. -/
def System.settle (x : System) (r : Role) (k : Nat) : System :=
  match r with
  | .remote  => { x with toRemote := x.toRemote.eraseIdx k }
  | .station => { x with toStation := x.toStation.eraseIdx k }

/-- Node `r` takes one step on input `i`. -/
def System.nodeStep (x : System) (r : Role) (i : Input) : Host.Outcome System Fault Refusal :=
  andThen (step { x.node r with inputs := [i] }) fun s => .next (x.update r s)

/-- What the transport of node `r` reports for word `w` settled as `d`. -/
def System.arrive (x : System) (r : Role) (w : Word) :
    Delivery → Host.Outcome System Fault Refusal
  | .intact      =>
    if (x.node r).armed then x.nodeStep r (.rxDone (.frame w)) else .refused .channelForbids
  | .crcMismatch =>
    if (x.node r).armed then x.nodeStep r (.rxDone .crcMismatch) else .refused .channelForbids
  | .otherError  =>
    if (x.node r).armed then x.nodeStep r (.rxDone .otherError) else .refused .channelForbids
  | .lost        => .next x

/-- One move of the system. DESIGN CHOICE (log 31): a receive error reaches a node only as the end of a
frame on the air to it; 42_link_tick.md R185 does not say whether an armed receiver may report one with no
frame on the air, and the system has no such move. -/
def System.move (x : System) : Move → Host.Outcome System Fault Refusal
  | .tick r now => x.nodeStep r (.tick now)
  | .push w     => x.nodeStep .remote (.push w)
  | .txDone r q =>
    if 0 < (x.node r).inFlight then x.nodeStep r (.txDone q) else .refused .channelForbids
  | .air r k d  =>
    match (x.airTo r)[k]? with
    | some w => (x.settle r k).arrive r w d
    | none   => .refused .channelForbids

/-- A list of moves, stopping at the first fault or refusal. -/
def System.run (x : System) : List Move → Host.Outcome System Fault Refusal
  | []      => .next x
  | m :: ms => andThen (x.move m) fun y => y.run ms

end Sys2Proof.Machine
end

