-- ==== Sys2Proof/Safety.lean ====
section
/-! DEFINITION. The terms in which claims about the machine are stated: the invariants of the block, a
safe outcome, what of a state any rule can still read, and the runs of hold operations. -/

namespace Sys2Proof.Machine

/-- A node as its construction and every later step leaves it. Fields `countLe`, `topHeld`,
`noBuffering` and `pendingSend` are 10_state.md R34 items 1 to 4; the others say that the
configuration is one the spec admits and that each array has its length. -/
structure LinkInv (s : State) : Prop where
  config      : s.cfg.valid = true
  associated  : s.associated = s.cfg.assocReset
  countLe     : s.count ≤ s.cfg.k
  holdRemote  : s.cfg.role = .remote → s.hold.length = s.cfg.k
  holdStation : s.cfg.role = .station → s.hold = [] ∧ s.count = 0
  topHeld     : s.cfg.role = .remote → s.ls = .send ∨ s.ls = .receive → 1 ≤ s.count
  noBuffering : s.cfg.role = .station → s.ls ≠ .buffering
  pendingSend : s.txPending = true → s.cfg.role = .station ∧ s.ls = .send
  settleTime  : s.txPending = true → s.settleAt + s.cfg.w = s.deadline + s.cfg.s
  waiting     : s.associated = false → s.ls = .init ∨ s.ls = .associate
  startTimes  : s.staging.startTimes.length = 4
  durations   : s.staging.durations.length = s.cfg.nStations

/-- The outcome is no fault (60_exceptions.md R297). -/
def NoFault {α : Type} : Host.Outcome α Fault Refusal → Prop
  | .next _    => True
  | .fault _   => False
  | .refused _ => True

/-- Some rule can read `deadline` before one writes it (10_state.md R24). -/
def deadlineLive (s : State) : Bool :=
  s.ls == .send || (s.ls == .receive && s.cfg.role == .remote)

/-- The state with every register that no rule can read before it is written put at one value: what
the node can still show (70_reset_and_hazards.md R320, 93_implementation_defined.md I3, I4). -/
def visible (s : State) : State :=
  { s with
    deadline := if deadlineLive s then s.deadline else 0
    txRes    := if s.txFlag then s.txRes else .ok
    rxRes    := if s.rxFlag then s.rxRes else .frame 0
    hold     := heldWords s
    resp     := if s.txPending then s.resp else 0
    settleAt := if s.txPending then s.settleAt else 0 }

/-- Two states no rule can tell apart: the same visible state, and as many hold entries. -/
structure SameVisible (s t : State) : Prop where
  visible : visible s = visible t
  entries : s.hold.length = t.hold.length

/-- Two outcomes of the same kind, with the same reason or related next states. -/
def SameOutcome (R : State → State → Prop) :
    Host.Outcome State Fault Refusal → Host.Outcome State Fault Refusal → Prop
  | .next s, .next t       => R s t
  | .fault a, .fault b     => a = b
  | .refused a, .refused b => a = b
  | _, _                   => False

/-- An operation of the hold (41_outbound_hold.md). -/
inductive HoldOp where
  | push (w : Word)
  | peek
  | pop
deriving DecidableEq, Repr

/-- The effect of one hold operation. -/
def HoldOp.apply : HoldOp → State → State
  | .push w, s => pushHold w s
  | .peek, s   => s
  | .pop, s    => popTop s

/-- The effect of a list of hold operations. -/
def runHold : List HoldOp → State → State
  | [], s        => s
  | o :: os, s => runHold os (o.apply s)

/-- The words `n` rounds of `peek_top(); pop_top()` release, in order. -/
def released : Nat → State → List (Option Word)
  | 0, _     => []
  | n + 1, s => peekTop s :: released n (popTop s)

/-- A command that names a slot inconsistent with the store's program count `n`: the source's
ConsistencyError (45_dispatcher_contract.md R262, R264, R265). -/
def desyncs (n : Nat) : Command → Bool
  | .known (.programAddDel slot add) => if flagField add then slot != n else n ≤ slot
  | _ => false

/-- Some event of the list is a `Submit`. -/
def submits (es : List Event) : Bool := !(submitted es).isEmpty

/-- The state with `i` as its only placed input. -/
def State.given (i : Input) (s : State) : State := { s with inputs := [i] }

end Sys2Proof.Machine
end

