-- ==== Sys2Proof/Certificates/Slice0/Obligations.lean ====
section
/-! DEFINITION. The statements for the provers. A docstring names the rule of spec/ a statement
formalises, and the log entry of each clause that is the model's own. -/

open Sys2Proof Sys2Proof.Machine

/-! ### The codec -/

/-- 40_codec.md R128, whole: the round trip of `encode` and `decode`, of `encode` and `slice`, of a word
with a known opcode, and of `encode_raw`. -/
def Obligations.EncodeDecodeSliceRoundTrip : Prop :=
  (∀ (m : OpcodeMap) (i : Instr), m.injective →
    decode (encode m i) =
      (m.get i.opName, payloadOf (packFields (layout i.opName) i.fields 0)) ∧
    slice m (encode m i) = .known i.masked) ∧
  (∀ (m : OpcodeMap) (w : Word) (i : Instr), slice m w = .known i →
    encode m i = w &&& ~~~unusedMask i.opName) ∧
  (∀ w : Word, encodeRaw (decode w).1.toNat (decode w).2.toNat = w)

/-- Decode and encode agree: the octets of an encoded well-formed command decode to that command, and
only they and words that differ in unused bits do (from 40_codec.md R128 and 20_memory.md R53). -/
def Obligations.WellFormedCommandsSurviveTheWire : Prop :=
  ∀ (m : OpcodeMap), m.injective →
    (∀ i : Instr, i.wf → decodeOctets m (toFrame (encode m i)).octets = .ok i) ∧
    (∀ (f : Frame) (i : Instr), decodeOctets m f.octets = .ok i →
      i.wf ∧ encode m i = fromFrame f &&& ~~~unusedMask i.opName)

/-- 40_codec.md R112, whole: the truncation law, for every field of every layout and every natural. -/
def Obligations.OverWideFieldsAreTruncated : Prop :=
  ∀ (m : OpcodeMap) (n : OpName) (fs : List Nat) (k v hi lo : Nat), m.injective →
    (layout n)[k]? = some (hi, lo) → fs.length = (layout n).length →
    encodeFields m n (fs.set k v) = encodeFields m n (fs.set k (v % 2 ^ (hi + 1 - lo))) ∧
    ∃ i, slice m (encodeFields m n (fs.set k v)) = .known i ∧
      i.opName = n ∧ i.fields[k]? = some (v % 2 ^ (hi + 1 - lo)) ∧
      slice m (encodeFields m n (fs.set k (v % 2 ^ (hi + 1 - lo)))) = .known i

/-- The packer and the slicer of each opcode (40_codec.md R116 to R127) are the generic ones over its
layout (R110, R115), and an encoded word has no unused bit set. -/
def Obligations.GenericCodecIsEachPackerAndSlicer : Prop :=
  (∀ (m : OpcodeMap) (i : Instr), encodeFields m i.opName i.fields = encode m i ∧
    encode m i &&& unusedMask i.opName = 0) ∧
  (∀ (n : OpName) (p : BitVec 27), Instr.ofFields n (sliceFields n p) = slicePayload n p)

/-- Unused payload bits never matter to `slice` (30_encoding.md R75, 40_codec.md R115). -/
def Obligations.SliceIgnoresUnusedBits : Prop :=
  ∀ (m : OpcodeMap) (w v : Word) (n : OpName), m.name? (opcodeOf w) = some n →
    (slice m w = slice m v ↔ w &&& ~~~unusedMask n = v &&& ~~~unusedMask n)

/-- 30_encoding.md R73, whole: which opcodes are known, and under the default `OPC` which are not. -/
def Obligations.KnownOpcodesAreTheValuesOfOPC : Prop :=
  (∀ (m : OpcodeMap) (op : BitVec 5), (m.name? op).isSome ↔ ∃ n, op = m.get n) ∧
  (∀ (m : OpcodeMap) (n : OpName), m.injective → m.name? (m.get n) = some n) ∧
  (∀ op : BitVec 5, OpcodeMap.table.name? op = none ↔ op = 0 ∨ 13 ≤ op.toNat)

/-- `extract` on an encoded command: the payload under its own opcode, 0 under any other
(40_codec.md R114). -/
def Obligations.ExtractGivesThePayloadOnlyOnAMatch : Prop :=
  ∀ (m : OpcodeMap) (i : Instr) (n : OpName), m.injective →
    extract (encode m i) (m.get n) =
      if n = i.opName then payloadOf (packFields (layout n) i.fields 0) else 0

/-- 40_codec.md R129, whole: words byte-match exactly when they are equal, and the Remote's check
compares whole words. -/
def Obligations.FramesMatchExactlyWhenWordsAreEqual : Prop :=
  (∀ a b : Word, toFrame a = toFrame b ↔ a = b) ∧
  (∀ f : Frame, toFrame (fromFrame f) = f) ∧ (∀ w : Word, fromFrame (toFrame w) = w) ∧
  (∀ (c r : Word) (s : State), (reportMismatch c r s).out =
    s.out ++ if toFrame r = toFrame c then [] else [.protocolMismatch c r])

/-- The first octet of a frame carries the opcode and the top of the payload (20_memory.md R53). -/
def Obligations.TheFirstOctetCarriesTheOpcode : Prop :=
  ∀ w : Word, (opcodeOf w).toNat = (toFrame w).o0.toNat >>> 3 ∧
    bits (payloadOf w) 26 24 = bits (toFrame w).o0 2 0

/-- Words written out from the patterns of 30_encoding.md R76 to R87, under the default `OPC`. -/
def Obligations.WrittenWordsDecode : Prop :=
  decodeTableWord 32 0b00001000000000000111100000000111 = some (.testStation 1 3 60) ∧
  decodeTableWord 32 0b00010000000000000000000010000010 = some (.programAddDel 2 1) ∧
  decodeTableWord 32 0b00011000000000000110110010000001 =
    some (.programMainSetup 1 1 0 2 1 3) ∧
  decodeTableWord 32 0b00110000000001111000001000000001 = some (.programDuration 1 4 15) ∧
  decodeTableWord 32 0b00111001101100000101010100010101 = some (.timeSync 28333333) ∧
  decodeTableWord 32 0b01100000000000000000000000000001 = some .syncError ∧
  decodeTableWord 32 0b01101000000000000000000000000001 = none

/-! ### The OutboundHold -/

/-- 41_outbound_hold.md R151, whole, with the push that finds room (R150) beside it: the held words
after a push, and the state otherwise. -/
def Obligations.PushAppendsOrDropsSilently : Prop :=
  (∀ (w : Word) (s : State), s.count = s.cfg.k → pushHold w s = s) ∧
  (∀ (w : Word) (s : State), s.count < s.cfg.k → s.hold.length = s.cfg.k →
    heldWords (pushHold w s) = heldWords s ++ [w] ∧ size (pushHold w s) = size s + 1 ∧
    pushHold w s = { s with hold := s.hold.set s.count w, count := s.count + 1 })

/-- `peek_top` and `pop_top` on the held words (41_outbound_hold.md R152 to R154). -/
def Obligations.PeekAndPopWorkOnTheNewestWord : Prop :=
  ∀ s : State, s.count ≤ s.hold.length →
    peekTop s = (heldWords s).getLast? ∧ heldWords (popTop s) = (heldWords s).dropLast ∧
    popTop s = { s with count := s.count - 1 } ∧ (s.count = 0 → popTop s = s)

/-- 41_outbound_hold.md R157 for any number of words: what is pushed with room comes back in reverse,
and the older words then stand as before. -/
def Obligations.ReleaseOrderIsLastInFirstOut : Prop :=
  ∀ (ws : List Word) (s : State), s.hold.length = s.cfg.k → s.count + ws.length ≤ s.cfg.k →
    released ws.length (runHold (ws.map HoldOp.push) s) = ws.reverse.map some ∧
    heldWords (runHold (List.replicate ws.length HoldOp.pop) (runHold (ws.map HoldOp.push) s)) =
      heldWords s

/-- 41_outbound_hold.md R158: the capacity bound under any sequence of operations. -/
def Obligations.CapacityIsNeverExceeded : Prop :=
  (∀ (os : List HoldOp) (s : State), s.count ≤ s.cfg.k →
    (runHold os s).count ≤ (runHold os s).cfg.k) ∧
  (∀ (ws : List Word) (s : State), s.count = s.cfg.k → runHold (ws.map HoldOp.push) s = s)

/-! ### The commands: what the dispatcher does with each, and that it completes -/

/-- TestStation, StationReboot and the commands with no action: the next state
(45_dispatcher_contract.md R263, R272 to R275). The response is the word in the command register. That
the register is cleared is log 10. -/
def Obligations.ImmediateCommandsComplete : Prop :=
  ∀ s : State,
    (∀ on sid dur : Nat, exec (.testStation on sid dur) s = .next { s with
      calls := s.calls ++ [.runZoneTest sid dur], pendingSyncError := false,
      resp := s.cmdReg, cmdReg := 0 }) ∧
    exec .stationReboot s = .next { s with
      calls := s.calls ++ [.requestReboot s.cfg.rebootCause], rebootRequested := true,
      pendingSyncError := false, resp := s.cmdReg, cmdReg := 0 } ∧
    exec .currentRequest s = .next { s with
      pendingSyncError := false, resp := s.cmdReg, cmdReg := 0 } ∧
    exec .emergencyShutdown s = .next { s with
      pendingSyncError := false, resp := s.cmdReg, cmdReg := 0 } ∧
    exec .syncError s = .next { s with
      pendingSyncError := false, resp := s.cmdReg, cmdReg := 0 }

/-- TimeSync and TimeZoneSync: the next state (45_dispatcher_contract.md R270, R271; log 10). -/
def Obligations.ClockCommandsComplete : Prop :=
  ∀ s : State,
    (∀ minutes : Nat, exec (.timeSync minutes) s = .next { s with
      calls := s.calls ++ [.setTime (minutes * 60)], pendingSyncError := false,
      resp := s.cmdReg, cmdReg := 0 }) ∧
    (∀ tz : Nat, exec (.timeZoneSync tz) s = .next { s with
      calls := s.calls ++ [.setTimezone tz, .disableNtp], pendingSyncError := false,
      resp := s.cmdReg, cmdReg := 0 })

/-- ProgramDays, ProgramStartTime and ProgramDuration: the next state, only the staging record and the
response written (45_dispatcher_contract.md R267 to R269; log 10), and where ProgramDuration is refused
(93_implementation_defined.md I9; log 15). -/
def Obligations.StagingCommandsComplete : Prop :=
  ∀ s : State,
    (∀ slot days : Nat, exec (.programDays slot days) s = .next { s with
      staging := { s.staging with days := BitVec.ofNat 16 days },
      pendingSyncError := false, resp := s.cmdReg, cmdReg := 0 }) ∧
    (∀ slot ix t ty : Nat, exec (.programStartTime slot ix t ty) s = .next { s with
      staging := { s.staging with
        startTimes := s.staging.startTimes.set (ix % 4) (BitVec.ofNat 16 t),
        stType := ty % 2 == 1 },
      pendingSyncError := false, resp := s.cmdReg, cmdReg := 0 }) ∧
    (∀ slot sid dur : Nat, sid < s.cfg.nStations →
      exec (.programDuration slot sid dur) s = .next { s with
        staging := { s.staging with
          durations := s.staging.durations.set sid (BitVec.ofNat 11 dur) },
        pendingSyncError := false, resp := s.cmdReg, cmdReg := 0 }) ∧
    (∀ slot sid dur : Nat, s.cfg.nStations ≤ sid →
      exec (.programDuration slot sid dur) s = .refused .durationOutOfRange)

/-- ProgramAddDel: the four cases and their next states (45_dispatcher_contract.md R262, R264, R265). The
program counts are those of the test store of 95_test_vectors.md, the model's assumption of log 8, and
the command register is log 10. -/
def Obligations.ProgramAddDelCompletes : Prop :=
  ∀ (slot add : Nat) (s : State),
    (add % 2 = 1 → slot = s.storeCount → exec (.programAddDel slot add) s = .next { s with
      calls := s.calls ++ [.upsert slot s.staging], storeCount := s.storeCount + 1,
      pendingSyncError := false, resp := s.cmdReg, cmdReg := 0 }) ∧
    (add % 2 = 0 → slot < s.storeCount → exec (.programAddDel slot add) s = .next { s with
      calls := s.calls ++ [.delete slot], storeCount := s.storeCount - 1,
      pendingSyncError := false, resp := s.cmdReg, cmdReg := 0 }) ∧
    ((add % 2 = 1 ∧ slot ≠ s.storeCount) ∨ (add % 2 = 0 ∧ s.storeCount ≤ slot) →
      exec (.programAddDel slot add) s = .next { s with
        calls := s.calls ++ [.deleteAll], storeCount := 0, pendingSyncError := true,
        resp := syncErrorWord s.cfg.opc, cmdReg := syncErrorWord s.cfg.opc })

/-- ProgramMainSetup: the staging fields it copies and the upsert it always issues
(45_dispatcher_contract.md R266). The program count after it is the test store's (log 8) or, beyond the
count, a free value (log 9); the command register is log 10. -/
def Obligations.ProgramMainSetupCompletes : Prop :=
  ∀ (slot en uw oe st pc : Nat) (s : State),
    let g : Staging := { s.staging with
      enabled := en % 2 == 1, useWeather := uw % 2 == 1, oddEven := BitVec.ofNat 2 oe,
      scheduleType := BitVec.ofNat 2 st }
    let t : State := { s with
      staging := g, calls := s.calls ++ [.upsert slot g], pendingSyncError := false,
      resp := s.cmdReg, cmdReg := 0 }
    exec (.programMainSetup slot en uw oe st pc) s = .next (
      if slot < s.storeCount then t
      else if slot = s.storeCount then { t with storeCount := s.storeCount + 1 }
      else { t with
        storeCount := Config.upsertBeyondCount s.freeIndex s.storeCount slot
        freeIndex := s.freeIndex + 1 })

/-- Every received word, of a known opcode or not, is answered with itself, or with SyncError exactly
when it names a slot inconsistent with the program count, and only then is the store purged
(45_dispatcher_contract.md R262, R275, R276). -/
def Obligations.ResponseIsTheWordOrSyncError : Prop :=
  ∀ (w : Word) (s t : State), runDispatch w s = .next t →
    t.resp = (if desyncs s.storeCount (slice s.cfg.opc w) then syncErrorWord s.cfg.opc else w) ∧
    t.pendingSyncError = desyncs s.storeCount (slice s.cfg.opc w) ∧
    t.out = s.out ++ [.dispatch w] ∧
    ∃ cs, t.calls = s.calls ++ cs ∧
      (Call.deleteAll ∈ cs ↔ desyncs s.storeCount (slice s.cfg.opc w) = true)

/-- A dispatch touches no register of the block but `resp` (44_link_station.md R233, 20_memory.md R63). -/
def Obligations.DispatchWritesNoLinkRegister : Prop :=
  ∀ (w : Word) (s t : State), runDispatch w s = .next t →
    t.cfg = s.cfg ∧ t.ls = s.ls ∧ t.associated = s.associated ∧ t.deadline = s.deadline ∧
    t.txFlag = s.txFlag ∧ t.txRes = s.txRes ∧ t.rxFlag = s.rxFlag ∧ t.rxRes = s.rxRes ∧
    t.hold = s.hold ∧ t.count = s.count ∧ t.txPending = s.txPending ∧ t.settleAt = s.settleAt ∧
    t.armed = s.armed ∧ t.inFlight = s.inFlight ∧ t.lastNow = s.lastNow ∧ t.inputs = s.inputs

/-- Every 32-bit word is dispatched to its end when the duration array has a place for each 8-bit
station id, and no dispatch ends in a fault (45_dispatcher_contract.md R260, 30_encoding.md R74). -/
def Obligations.EveryWordIsDispatchedToItsEnd : Prop :=
  ∀ (w : Word) (s : State), NoFault (runDispatch w s) ∧
    (256 ≤ s.cfg.nStations → ∃ t, runDispatch w s = .next t)

/-- Only ProgramAddDel (add) and ProgramMainSetup commit the staging record, as it stands after the
command (70_reset_and_hazards.md R330). -/
def Obligations.OnlyAddAndSetupCommitStaging : Prop :=
  ∀ (i : Instr) (s t : State) (slot : Nat) (g : Staging), exec i s = .next t →
    Call.upsert slot g ∈ t.calls → Call.upsert slot g ∈ s.calls ∨
    (g = t.staging ∧ ((∃ add, i = .programAddDel slot add ∧ add % 2 = 1) ∨
      ∃ en uw oe st pc, i = .programMainSetup slot en uw oe st pc))

/-! ### A step runs the decoded command -/

/-- A Station in `Receive` whose received frame decodes to a command executes that command in its next
tick: the step is `exec` of it on the state with the word in the command register and the trace begun,
followed by the move to `Send` and the action phase (44_link_station.md R233, 42_link_tick.md R173). -/
def Obligations.StepRunsTheDecodedCommand : Prop :=
  ∀ (s : State) (now : Nat) (rest : List Input) (w : Word) (i : Instr),
    s.cfg.role = .station → s.ls = .receive → s.rxFlag = true → s.rxRes = .frame w →
    s.inputs = .tick now :: rest → s.lastNow ≤ now →
    decodeOctets s.cfg.opc (toFrame w).octets = .ok i →
    step s = andThen
      (exec i { s with
        inputs := rest, out := [.dispatch w], calls := [], rxFlag := false, cmdReg := w })
      (fun t => .next { actionPhase now .receive false (beginResponse now t) with lastNow := now })

/-- The host's fetch: after `withFetchWord` the next step runs the command of the table word (log 4). -/
def Obligations.TheFetchedTableWordRunsNext : Prop :=
  ∀ (s : State) (nbits w : Nat) (i : Instr), decodeTableWord nbits w = some i →
    step (s.withFetchWord nbits w) = andThen
      (exec i { s.withFetchWord nbits w with
        inputs := s.inputs, out := [.dispatch (tableWord nbits w)], calls := [], rxFlag := false,
        cmdReg := tableWord nbits w })
      (fun t => .next
        { actionPhase s.lastNow .receive false (beginResponse s.lastNow t) with
          lastNow := s.lastNow })

/-! ### The Remote's tick -/

/-- 43_link_remote.md R200 and R201, whole. -/
def Obligations.RemoteLeavesInitAndAssociateByAssociation : Prop :=
  ∀ (now : Nat) (s : State), s.cfg.role = .remote → s.lastNow ≤ now →
    s.ls = .init ∨ s.ls = .associate →
    tick now s = .next { s with
      ls := if s.associated then .buffering else .associate, lastNow := now }

/-- A Remote's tick in `Buffering`: it submits the top of a hold that has words, and waits on an empty
one (43_link_remote.md R202, R203). `inFlight` is the model's count (log 13). -/
def Obligations.RemoteBufferingSendsTheTop : Prop :=
  ∀ (now : Nat) (s : State), s.cfg.role = .remote → s.lastNow ≤ now → s.ls = .buffering →
    (0 < size s → ∃ w, peekTop s = some w ∧ tick now s = .next { s with
      ls := .send, deadline := now + s.cfg.w, txFlag := false, inFlight := s.inFlight + 1,
      out := s.out ++ [.submit (toFrame w)], lastNow := now }) ∧
    (size s = 0 → tick now s = .next { s with deadline := now, lastNow := now })

/-- 43_link_remote.md R204, R205 and R206, whole: completion before expiry, and the timer reset only on
completion. -/
def Obligations.RemoteSendEndsByCompletionOrExpiry : Prop :=
  ∀ (now : Nat) (s : State), s.cfg.role = .remote → s.lastNow ≤ now → s.ls = .send →
    (s.txFlag = true → tick now s = .next { s with
      ls := .receive, deadline := now + s.cfg.w, txFlag := false, rxFlag := false, armed := true,
      out := s.out ++ (if s.txRes = .error then [.transportError .txFail] else []) ++
        [.armReceive], lastNow := now }) ∧
    (s.txFlag = false → s.deadline ≤ now → tick now s = .next { s with
      ls := .receive, rxFlag := false, armed := true, out := s.out ++ [.armReceive],
      lastNow := now }) ∧
    (s.txFlag = false → now < s.deadline → tick now s = .next { s with lastNow := now })

/-- A Remote's tick in `Receive` with a response: the two independent reports, the pop of the top and
the return to `Buffering` (43_link_remote.md R207). That the purge empties the Remote's own store is the
model's (log 25). -/
def Obligations.RemoteTakesAResponse : Prop :=
  ∀ (now : Nat) (s : State) (c r : Word), s.cfg.role = .remote → s.lastNow ≤ now →
    s.ls = .receive → s.rxFlag = true → s.rxRes = .frame r → peekTop s = some c →
    tick now s = .next { s with
      ls := .buffering, deadline := now + s.cfg.w, rxFlag := false, count := s.count - 1,
      storeCount := if opcodeOf r = s.cfg.opc.syncError then 0 else s.storeCount,
      out := s.out ++ (if opcodeOf r = s.cfg.opc.syncError then [.storeDeleteAll] else []) ++
        (if r = c then [] else [.protocolMismatch c r]), lastNow := now }

/-- 43_link_remote.md R208, whole: a receive error under each policy. -/
def Obligations.RemoteReceiveErrorFollowsThePolicy : Prop :=
  ∀ (now : Nat) (s : State) (k : TransportErrorKind), s.cfg.role = .remote → s.lastNow ≤ now →
    s.ls = .receive → s.rxFlag = true →
    (s.rxRes = .crcMismatch ∧ k = .crcMismatch) ∨ (s.rxRes = .otherError ∧ k = .otherRx) →
    (s.cfg.rxErrorPolicy = .rearm → tick now s = .next { s with
      rxFlag := false, armed := true, out := s.out ++ [.transportError k, .armReceive],
      lastNow := now }) ∧
    (∀ c, s.cfg.rxErrorPolicy = .expire → peekTop s = some c → tick now s = .next { s with
      ls := .buffering, deadline := now + s.cfg.w, rxFlag := false, count := s.count - 1,
      out := s.out ++ [.transportError k, .commandLost c], lastNow := now })

/-- 43_link_remote.md R209 and R210, whole: with no completion the window's expiry loses the top, and
before it nothing changes. -/
def Obligations.RemoteReceiveWindowExpires : Prop :=
  ∀ (now : Nat) (s : State), s.cfg.role = .remote → s.lastNow ≤ now → s.ls = .receive →
    s.rxFlag = false →
    (∀ c, s.deadline ≤ now → peekTop s = some c → tick now s = .next { s with
      ls := .buffering, deadline := now + s.cfg.w, count := s.count - 1,
      out := s.out ++ [.commandLost c], lastNow := now }) ∧
    (now < s.deadline → tick now s = .next { s with lastNow := now })

/-! ### The Station's tick -/

/-- 44_link_station.md R230 and R231, whole. -/
def Obligations.StationLeavesInitAndAssociateByAssociation : Prop :=
  ∀ (now : Nat) (s : State), s.cfg.role = .station → s.lastNow ≤ now →
    s.ls = .init ∨ s.ls = .associate →
    tick now s = .next (if s.associated then { s with
        ls := .receive, rxFlag := false, armed := true, out := s.out ++ [.armReceive],
        lastNow := now }
      else { s with ls := .associate, lastNow := now })

/-- 44_link_station.md R232 and R234, whole: a Station listens for ever, and a receive error only re-arms
it, under either policy. -/
def Obligations.StationListensUntilAFrame : Prop :=
  ∀ (now : Nat) (s : State) (k : TransportErrorKind), s.cfg.role = .station → s.lastNow ≤ now →
    s.ls = .receive →
    (s.rxFlag = false → tick now s = .next { s with lastNow := now }) ∧
    (s.rxFlag = true →
      (s.rxRes = .crcMismatch ∧ k = .crcMismatch) ∨ (s.rxRes = .otherError ∧ k = .otherRx) →
      tick now s = .next { s with
        rxFlag := false, armed := true, out := s.out ++ [.transportError k, .armReceive],
        lastNow := now })

/-- A Station's tick with a frame: the dispatch, then unconditionally `Send` with the window and the
settle delay begun, and the response submitted in this same tick exactly when S = 0 (44_link_station.md
R233, R236). `inFlight` is the model's count (log 13). -/
def Obligations.StationDispatchesAndMovesToSend : Prop :=
  ∀ (now : Nat) (s t : State) (w : Word), s.cfg.role = .station → s.lastNow ≤ now →
    s.ls = .receive → s.rxFlag = true → s.rxRes = .frame w →
    runDispatch w { s with rxFlag := false } = .next t →
    (s.cfg.s = 0 → tick now s = .next { t with
      ls := .send, deadline := now + s.cfg.w, settleAt := now, txPending := false,
      txFlag := false, inFlight := t.inFlight + 1, out := t.out ++ [.submit (toFrame t.resp)],
      lastNow := now }) ∧
    (0 < s.cfg.s → tick now s = .next { t with
      ls := .send, deadline := now + s.cfg.w, settleAt := now + s.cfg.s, txPending := true,
      lastNow := now })

/-- A Station's tick in `Send`: completion of the sent response, expiry of the window, or the settle
action (44_link_station.md R235, R236, R237). `inFlight` is the model's count (log 13). -/
def Obligations.StationSendSettlesCompletesOrExpires : Prop :=
  ∀ (now : Nat) (s : State), s.cfg.role = .station → s.lastNow ≤ now → s.ls = .send →
    (s.txPending = false → s.txFlag = true → tick now s = .next { s with
      ls := .receive, txFlag := false, rxFlag := false, armed := true,
      out := s.out ++ (if s.txRes = .error then [.transportError .txFail] else []) ++
        [.armReceive], lastNow := now }) ∧
    (s.txPending = true ∨ s.txFlag = false → s.deadline ≤ now → tick now s = .next { s with
      ls := .receive, txPending := false, rxFlag := false, armed := true,
      out := s.out ++ [.armReceive], lastNow := now }) ∧
    (s.txPending = true ∨ s.txFlag = false → now < s.deadline →
      tick now s = .next (if s.txPending = true ∧ s.settleAt ≤ now then { s with
          txFlag := false, txPending := false, inFlight := s.inFlight + 1,
          out := s.out ++ [.submit (toFrame s.resp)], lastNow := now }
        else { s with lastNow := now }))

/-! ### The other agents' steps -/

/-- 20_memory.md R57 as a step of the machine: a delivery writes one event cell over whatever it held and
no other register. `armed` and `inFlight` are the transport's own (42_link_tick.md R185; log 13). -/
def Obligations.DeliveriesWriteOneEventCell : Prop :=
  ∀ (s : State) (rest : List Input),
    (∀ r, s.inputs = .txDone r :: rest → step s = .next { s with
      inputs := rest, out := [], calls := [], txRes := r, txFlag := true,
      inFlight := s.inFlight - 1 }) ∧
    (∀ q, s.inputs = .rxDone q :: rest → step s = .next { s with
      inputs := rest, out := [], calls := [], rxRes := q, rxFlag := true, armed := false })

/-- Which steps are refused, and that no other step is: a decreasing `now` (42_link_tick.md R171), a push
on a Station (41_outbound_hold.md R156) and a duration outside the array (93_implementation_defined.md
I9). -/
def Obligations.StepIsRefusedExactlyWhenTheSpecHasNone : Prop :=
  ∀ (s : State) (r : Refusal), step s = .refused r ↔ ∃ i rest, s.inputs = i :: rest ∧
    ((∃ now, i = .tick now ∧ now < s.lastNow ∧ r = .timeBackwards) ∨
     (∃ w, i = .push w ∧ s.cfg.role = .station ∧ r = .pushOnStation) ∨
     (∃ now w slot sid dur, i = .tick now ∧ s.lastNow ≤ now ∧ s.cfg.role = .station ∧
       s.ls = .receive ∧ s.rxFlag = true ∧ s.rxRes = .frame w ∧
       slice s.cfg.opc w = .known (.programDuration slot sid dur) ∧ s.cfg.nStations ≤ sid ∧
       r = .durationOutOfRange))

/-! ### The whole machine -/

/-- The state after a construction the spec admits, for every value of the registers it leaves
unspecified, meets the invariant, and so does `State.reset`; another construction is refused
(70_reset_and_hazards.md R320, R323, 10_state.md R34). -/
def Obligations.ConstructionMeetsTheInvariant : Prop :=
  (∀ (c : Config) (u : Unspecified), c.valid →
    State.construct c u = .next (.resetWith c u) ∧ LinkInv (.resetWith c u)) ∧
  (∀ (c : Config) (u : Unspecified), ¬ c.valid →
    State.construct c u = .refused .invalidConstruction) ∧
  LinkInv State.reset

/-- Every step keeps the invariant: 10_state.md R34 items 1 to 4 and the fields of `LinkInv` beside them. -/
def Obligations.EveryStepKeepsTheInvariant : Prop :=
  ∀ s t : State, LinkInv s → step s = .next t → LinkInv t

/-- No error halts the block: from a state that meets the invariant, no run of any length on any inputs
ends in a fault (60_exceptions.md R296, R297). -/
def Obligations.NoRunFaults : Prop :=
  ∀ (n : Nat) (s : State), LinkInv s → NoFault (Sys2Proof.core.run n s)

/-- 10_state.md R22 and R23, whole: no step writes the role or any other parameter, nor `associated`,
whose reset value is ASSOC_RESET. -/
def Obligations.NoStepWritesRoleOrAssociated : Prop :=
  (∀ s t : State, step s = .next t → t.cfg = s.cfg ∧ t.associated = s.associated) ∧
  (∀ (c : Config) (u : Unspecified), (State.resetWith c u).associated = c.assocReset)

/-- No rule reads a register before it is written: states that differ only in such registers step to
such states, with the same events and the same reason where they stop (70_reset_and_hazards.md R320,
93_implementation_defined.md I3, I4). -/
def Obligations.UnwrittenRegistersAreNeverRead : Prop :=
  ∀ s t : State, SameVisible s t → SameOutcome SameVisible (step s) (step t)

/-- The unspecified reset values never show in any run of any configuration on any inputs
(70_reset_and_hazards.md R320). -/
def Obligations.UnspecifiedResetValuesNeverShow : Prop :=
  ∀ (c : Config) (u v : Unspecified) (is : List Input) (n : Nat),
    SameOutcome SameVisible
      (Sys2Proof.core.run n { State.resetWith c u with inputs := is })
      (Sys2Proof.core.run n { State.resetWith c v with inputs := is })

/-- The held words change only by a host push with room, which appends, and by a Remote's tick that
leaves `Receive` for `Buffering`, which drops the newest (20_memory.md R63, 41_outbound_hold.md R156). -/
def Obligations.HoldChangesOnlyByPushAndWindowEnd : Prop :=
  ∀ s t : State, LinkInv s → step s = .next t →
    heldWords t = heldWords s ∨
    (∃ w rest, s.inputs = .push w :: rest ∧ s.count < s.cfg.k ∧
      heldWords t = heldWords s ++ [w]) ∨
    (∃ now rest, s.inputs = .tick now :: rest ∧ s.cfg.role = .remote ∧ s.ls = .receive ∧
      t.ls = .buffering ∧ heldWords t = (heldWords s).dropLast)

/-- The Remote purges its store exactly when it takes a SyncError response (43_link_remote.md R207,
60_exceptions.md R293). -/
def Obligations.RemotePurgesExactlyOnSyncError : Prop :=
  ∀ s t : State, step s = .next t →
    (Event.storeDeleteAll ∈ t.out ↔ ∃ now rest r, s.inputs = .tick now :: rest ∧
      s.cfg.role = .remote ∧ s.ls = .receive ∧ s.rxFlag = true ∧ s.rxRes = .frame r ∧
      opcodeOf r = s.cfg.opc.syncError)

/-- A node submits only the word the rules name: a Remote the top of its hold on leaving `Buffering`, a
Station the response of a window it has not answered (42_link_tick.md R174, 44_link_station.md R236). -/
def Obligations.SubmittedFramesAreTheTopOrTheResponse : Prop :=
  ∀ (s t : State) (f : Frame), step s = .next t → Event.submit f ∈ t.out →
    (s.cfg.role = .remote ∧ s.ls = .buffering ∧ t.ls = .send ∧
      ∃ w, peekTop s = some w ∧ f = toFrame w) ∨
    (s.cfg.role = .station ∧ t.ls = .send ∧ t.txPending = false ∧ t.txFlag = false ∧
      t.settleAt ≤ t.lastNow ∧ f = toFrame t.resp ∧
      (s.txPending = true ∨ ∃ w, s.rxFlag = true ∧ s.rxRes = .frame w ∧ s.ls = .receive))

/-- A pending completion stays pending until a tick of a state that tests its cell, or the entry that
starts a new operation, clears it (60_exceptions.md R300, 70_reset_and_hazards.md R336). -/
def Obligations.CompletionsArePendingUntilTested : Prop :=
  ∀ s t : State, step s = .next t →
    (s.txFlag = true → t.txFlag = false →
      (∃ now rest, s.inputs = .tick now :: rest) ∧ (s.ls = .send ∨ t.ls = .send)) ∧
    (s.rxFlag = true → t.rxFlag = false →
      (∃ now rest, s.inputs = .tick now :: rest) ∧ (s.ls = .receive ∨ t.ls = .receive))

/-- A receiver becomes armed only by an `ArmReceive` of that step and stops being armed only by a
receive-done, and no receiver is armed at construction (42_link_tick.md R185 item 2,
70_reset_and_hazards.md R321). -/
def Obligations.AnArmLastsUntilOneReceiveDone : Prop :=
  (∀ s t : State, step s = .next t →
    (t.armed = true ↔ Event.armReceive ∈ t.out ∨
      (s.armed = true ∧ ∀ q rest, s.inputs ≠ .rxDone q :: rest))) ∧
  (∀ (c : Config) (u : Unspecified), (State.resetWith c u).armed = false)

/-- Registers of one role are never written in the other: a Remote's step leaves the Station's and the
dispatcher's registers, a Station's step the hold (20_memory.md R63, 00_scope.md R6). -/
def Obligations.EachRoleWritesOnlyItsRegisters : Prop :=
  ∀ s t : State, step s = .next t →
    (s.cfg.role = .remote → t.resp = s.resp ∧ t.txPending = s.txPending ∧
      t.settleAt = s.settleAt ∧ t.staging = s.staging ∧
      t.pendingSyncError = s.pendingSyncError ∧ t.rebootRequested = s.rebootRequested ∧
      t.cmdReg = s.cmdReg ∧ t.freeIndex = s.freeIndex ∧ t.calls = []) ∧
    (s.cfg.role = .station → t.hold = s.hold ∧ t.count = s.count)

/-! ### Hazards and scenarios -/

/-- A node that is not associated waits for ever: no run takes it out of `Init` and `Associate`, and it
never emits an event (70_reset_and_hazards.md R331 item 1). -/
def Obligations.UnassociatedNodeWaitsForEver : Prop :=
  ∀ (n : Nat) (s t : State), s.associated = false → s.ls = .init ∨ s.ls = .associate →
    s.out = [] → Sys2Proof.core.run n s = .next t →
    (t.ls = .init ∨ t.ls = .associate) ∧ t.associated = false ∧ t.out = []

/-- A Station with `S >= W` never answers (70_reset_and_hazards.md R328). -/
def Obligations.SettleDelayAtLeastTheWindowNeverAnswers : Prop :=
  ∀ s t : State, LinkInv s → s.cfg.role = .station → s.cfg.w ≤ s.cfg.s → step s = .next t →
    submits t.out = false

/-- After a `Send` timeout the Remote's receive window is already over: the next tick without a received
frame loses the word (70_reset_and_hazards.md R335). -/
def Obligations.SendTimeoutLeavesNoReceiveWindow : Prop :=
  ∀ (s : State) (t1 t2 : Nat) (c : Word), LinkInv s → s.cfg.role = .remote → s.ls = .send →
    s.txFlag = false → s.lastNow ≤ t1 → s.deadline ≤ t1 → t1 ≤ t2 → peekTop s = some c →
    s.inputs = [.tick t1, .tick t2] →
    ∃ t, Sys2Proof.core.run 2 s = .next t ∧ t.ls = .buffering ∧ t.out = [.commandLost c] ∧
      heldWords t = (heldWords s).dropLast ∧ t.deadline = t2 + s.cfg.w

/-- The backoff is no throttle: a Remote with another word held submits it in the very next tick after a
response, even at the same time (70_reset_and_hazards.md R329). -/
def Obligations.BackoffDoesNotDelayTheNextWord : Prop :=
  ∀ (s : State) (t1 t2 : Nat) (r : Word), LinkInv s → s.cfg.role = .remote → s.ls = .receive →
    s.rxFlag = true → s.rxRes = .frame r → s.lastNow ≤ t1 → t1 ≤ t2 → 2 ≤ s.count →
    s.inputs = [.tick t1, .tick t2] →
    ∃ t w, Sys2Proof.core.run 2 s = .next t ∧ peekTop (popTop s) = some w ∧
      t.ls = .send ∧ t.out = [.submit (toFrame w)] ∧ t.deadline = t2 + s.cfg.w

/-- A push during a round trip changes the word the response is compared with: the response to `a` is
held against the pushed `b`, `b` is popped unsent, and `a` is submitted again
(70_reset_and_hazards.md R325). -/
def Obligations.PushDuringARoundTripMismatches : Prop :=
  ∀ (s : State) (a b : Word) (t1 t2 t3 : Nat), LinkInv s → s.cfg.role = .remote → s.ls = .send →
    peekTop s = some a → a ≠ b → opcodeOf a ≠ s.cfg.opc.syncError → s.count < s.cfg.k →
    s.lastNow ≤ t1 → t1 ≤ t2 → t2 ≤ t3 →
    (∃ t, Sys2Proof.core.run 5 { s with inputs :=
        [.push b, .txDone .ok, .tick t1, .rxDone (.frame a), .tick t2] } = .next t ∧
      t.out = [.protocolMismatch b a] ∧ heldWords t = heldWords s) ∧
    (∃ t, Sys2Proof.core.run 6 { s with inputs :=
        [.push b, .txDone .ok, .tick t1, .rxDone (.frame a), .tick t2, .tick t3] } = .next t ∧
      t.out = [.submit (toFrame a)])

/-- The source's property P8: no response before the window expires loses the command, with no retry and
no ScheduleStore call (95_test_vectors.md L1, 43_link_remote.md R209). -/
def Obligations.UnansweredCommandIsLostWithoutRetry : Prop :=
  ∀ (s : State) (c : Word) (t1 t2 t3 : Nat), LinkInv s → s.cfg.role = .remote → s.ls = .buffering →
    heldWords s = [c] → s.lastNow ≤ t1 → t1 ≤ t2 → t2 + s.cfg.w ≤ t3 →
    s.inputs = [.tick t1, .txDone .ok, .tick t2, .tick t3] →
    ∃ t, Sys2Proof.core.run 4 s = .next t ∧ t.ls = .buffering ∧ heldWords t = [] ∧
      t.out = [.commandLost c] ∧ t.storeCount = s.storeCount ∧ t.calls = []

/-- The source's property P7, end to end between two nodes: a command the Station accepts is transmitted,
dispatched and answered with itself, and the Remote pops it with no mismatch
(95_test_vectors.md L1, 60_exceptions.md R308; the channel is log 23). -/
def Obligations.CommandTravelsEndToEnd : Prop :=
  ∀ (x : System) (c : Word) (t1 t2 t3 u : Nat),
    LinkInv x.remote → x.remote.cfg.role = .remote → x.remote.ls = .buffering →
    heldWords x.remote = [c] → x.remote.lastNow ≤ t1 → t1 ≤ t2 → t2 ≤ t3 →
    LinkInv x.station → x.station.cfg.role = .station → x.station.ls = .receive →
    x.station.armed = true → x.station.cfg.s = 0 → x.station.lastNow ≤ u →
    256 ≤ x.station.cfg.nStations →
    desyncs x.station.storeCount (slice x.station.cfg.opc c) = false →
    opcodeOf c ≠ x.remote.cfg.opc.syncError →
    x.toRemote = [] → x.toStation = [] →
    ∃ y : System, x.run [.tick .remote t1, .txDone .remote .ok, .air .station 0 .intact,
        .tick .remote t2, .tick .station u, .air .remote 0 .intact, .tick .remote t3] = .next y ∧
      y.remote.ls = .buffering ∧ heldWords y.remote = [] ∧ y.remote.out = [] ∧
      y.station.ls = .send ∧ y.station.resp = c ∧ y.station.txPending = false ∧
      y.toRemote = [] ∧ y.toStation = []

/-! ### The error classes -/

/-- When a step raises an error of each class: E1 when it takes a completion that reports an error, E2 when
a Remote takes a response that differs from its top, E3 when a Station dispatches a word whose slot is
inconsistent with the program count, E4 when a push meets a full hold, which then changes nothing
(60_exceptions.md R290 to R294). -/
def Obligations.EachErrorClassIsRaisedExactlyByItsCause : Prop :=
  ∀ s t : State, step s = .next t →
    (ErrorClass.transport ∈ stepErrors s t ↔ ∃ now rest, s.inputs = .tick now :: rest ∧
      ((s.ls = .send ∧ s.txFlag = true ∧ s.txRes = .error ∧
          (s.cfg.role = .station → s.txPending = false)) ∨
       (s.ls = .receive ∧ s.rxFlag = true ∧
          (s.rxRes = .crcMismatch ∨ s.rxRes = .otherError)))) ∧
    (ErrorClass.protocol ∈ stepErrors s t ↔ ∃ now rest c r, s.inputs = .tick now :: rest ∧
      s.cfg.role = .remote ∧ s.ls = .receive ∧ s.rxFlag = true ∧ s.rxRes = .frame r ∧
      peekTop s = some c ∧ r ≠ c) ∧
    (ErrorClass.consistency ∈ stepErrors s t ↔ ∃ now rest w, s.inputs = .tick now :: rest ∧
      s.cfg.role = .station ∧ s.ls = .receive ∧ s.rxFlag = true ∧ s.rxRes = .frame w ∧
      desyncs s.storeCount (slice s.cfg.opc w) = true) ∧
    (ErrorClass.capacity ∈ stepErrors s t ↔ ∃ w rest, s.inputs = .push w :: rest ∧
      s.cfg.k ≤ s.count) ∧
    (∀ w rest, s.inputs = .push w :: rest → s.cfg.k ≤ s.count →
      t = { s with inputs := rest, out := [], calls := [] })
end

