-- ==== Sys2Proof/Laws/Codec.lean ====
section
/-! SUPPORT. What each operation of the codec does to the fields of a word: the lemmas a proof about
`encode`, `decode` and `slice` cites in place of the shifts and masks. -/

namespace Sys2Proof

/-! ### The opcode and the payload of a word put together -/

@[simp] theorem opcodeOf_or (a b : Word) : opcodeOf (a ||| b) = opcodeOf a ||| opcodeOf b := by
  simp only [opcodeOf]; ext i hi; simp

@[simp] theorem payloadOf_or (a b : Word) : payloadOf (a ||| b) = payloadOf a ||| payloadOf b := by
  simp only [payloadOf]; ext i hi; simp

@[simp] theorem opcodeOf_opcodeBits (m : OpcodeMap) (n : OpName) :
    opcodeOf (opcodeBits m n) = m.get n := by
  simp only [opcodeOf, opcodeBits]
  generalize m.get n = v
  revert v; decide

@[simp] theorem payloadOf_opcodeBits (m : OpcodeMap) (n : OpName) :
    payloadOf (opcodeBits m n) = 0 := by
  simp only [payloadOf, opcodeBits]
  generalize m.get n = v
  revert v; decide

/-- Bit `i` of a placed field is a bit of the field's value. -/
theorem getLsbD_place (v n lo i : Nat) :
    (place v n lo).getLsbD i = (decide (i < 32) && !decide (i < lo) && decide (i - lo < n) &&
      v.testBit (i - lo)) := by
  simp only [place, BitVec.getLsbD_shiftLeft, BitVec.getLsbD_ofNat, Nat.testBit_mod_two_pow]
  by_cases h : i < 32
  · have : i - lo < 32 := by omega
    simp [h, this, Bool.and_assoc]
  · simp [h]

/-- No field of a layout reaches the opcode (30_encoding.md R89). -/
theorem opcodeOf_place {v n lo : Nat} (h : n + lo ≤ 27) : opcodeOf (place v n lo) = 0 := by
  simp only [opcodeOf]
  ext i hi
  simp only [BitVec.getElem_extractLsb', getLsbD_place]
  have : ¬ 27 + i - lo < n := by omega
  simp [this]

/-- A word is its opcode and its payload (30_encoding.md R70). -/
theorem word_ext {a b : Word} (ho : opcodeOf a = opcodeOf b) (hp : payloadOf a = payloadOf b) :
    a = b := by
  ext i hi
  by_cases h : i < 27
  · have := congrArg (·.getLsbD i) hp
    simpa [payloadOf, h, BitVec.getLsbD_eq_getElem hi] using this
  · have := congrArg (·.getLsbD (i - 27)) ho
    have e : 27 + (i - 27) = i := by omega
    have l : i - 27 < 5 := by omega
    simpa [opcodeOf, e, l, BitVec.getLsbD_eq_getElem hi] using this

/-! ### The opcode multiplexer -/

theorem injective_iff {m : OpcodeMap} :
    m.injective = true ↔ ∀ a b, m.get a = m.get b → a = b := by
  constructor
  · intro h a b e
    have hn : (OpName.all.map m.get).Nodup := by simpa [OpcodeMap.injective] using h
    have hall : ∀ n : OpName, n ∈ OpName.all := by intro n; cases n <;> decide
    exact List.inj_on_of_nodup_map hn (hall a) (hall b) e
  · intro h
    have hn : OpName.all.Nodup := by decide
    simpa [OpcodeMap.injective] using hn.map fun a b e => h a b e

theorem get_of_name? {m : OpcodeMap} {op : BitVec 5} {n : OpName} (h : m.name? op = some n) :
    m.get n = op := by
  simpa using List.find?_some h

end Sys2Proof
end

