-- ==== Sys2Proof/Laws/Errors.lean ====
section
/-! SUPPORT. Where each error class of a step shows: an event, a call or a dropped push. -/

namespace Sys2Proof.Machine

theorem transport_mem_stepErrors {s t : State} :
    ErrorClass.transport ∈ stepErrors s t ↔ ∃ k, Event.transportError k ∈ t.out := by
  simp only [stepErrors, List.mem_append, List.mem_filterMap]
  constructor
  · rintro ((⟨e, he, h⟩ | ⟨c, _, h⟩) | h)
    · cases e <;> simp_all [Event.errorClass]; exact ⟨_, he⟩
    · cases c <;> simp [Call.errorClass] at h
    · split at h <;> simp at h
  · rintro ⟨k, h⟩; exact .inl (.inl ⟨_, h, rfl⟩)

theorem protocol_mem_stepErrors {s t : State} :
    ErrorClass.protocol ∈ stepErrors s t ↔ ∃ c r, Event.protocolMismatch c r ∈ t.out := by
  simp only [stepErrors, List.mem_append, List.mem_filterMap]
  constructor
  · rintro ((⟨e, he, h⟩ | ⟨c, _, h⟩) | h)
    · cases e <;> simp_all [Event.errorClass]; exact ⟨_, _, he⟩
    · cases c <;> simp [Call.errorClass] at h
    · split at h <;> simp at h
  · rintro ⟨c, r, h⟩; exact .inl (.inl ⟨_, h, rfl⟩)

theorem consistency_mem_stepErrors {s t : State} :
    ErrorClass.consistency ∈ stepErrors s t ↔ Call.deleteAll ∈ t.calls := by
  simp only [stepErrors, List.mem_append, List.mem_filterMap]
  constructor
  · rintro ((⟨e, _, h⟩ | ⟨c, hc, h⟩) | h)
    · cases e <;> simp [Event.errorClass] at h
    · cases c <;> simp_all [Call.errorClass]
    · split at h <;> simp at h
  · exact fun h => .inl (.inr ⟨_, h, rfl⟩)

theorem capacity_mem_stepErrors {s t : State} :
    ErrorClass.capacity ∈ stepErrors s t ↔ dropsPush s = true := by
  simp only [stepErrors, List.mem_append, List.mem_filterMap]
  constructor
  · rintro ((⟨e, _, h⟩ | ⟨c, _, h⟩) | h)
    · cases e <;> simp [Event.errorClass] at h
    · cases c <;> simp [Call.errorClass] at h
    · by_contra hn; simp [hn] at h
  · intro h; right; simp [h]

end Sys2Proof.Machine
end

