-- ==== Sys2Proof/Laws/State.lean ====
section
/-! SUPPORT. One lemma for each field and each record update, so that no proof unfolds an update. -/

namespace Sys2Proof.Machine

section
variable (e : Event) (s : State)

@[simp] theorem emit_cfg : (emit e s).cfg = s.cfg := rfl
@[simp] theorem emit_ls : (emit e s).ls = s.ls := rfl
@[simp] theorem emit_associated : (emit e s).associated = s.associated := rfl
@[simp] theorem emit_deadline : (emit e s).deadline = s.deadline := rfl
@[simp] theorem emit_txFlag : (emit e s).txFlag = s.txFlag := rfl
@[simp] theorem emit_txRes : (emit e s).txRes = s.txRes := rfl
@[simp] theorem emit_rxFlag : (emit e s).rxFlag = s.rxFlag := rfl
@[simp] theorem emit_rxRes : (emit e s).rxRes = s.rxRes := rfl
@[simp] theorem emit_hold : (emit e s).hold = s.hold := rfl
@[simp] theorem emit_count : (emit e s).count = s.count := rfl
@[simp] theorem emit_resp : (emit e s).resp = s.resp := rfl
@[simp] theorem emit_txPending : (emit e s).txPending = s.txPending := rfl
@[simp] theorem emit_settleAt : (emit e s).settleAt = s.settleAt := rfl
@[simp] theorem emit_staging : (emit e s).staging = s.staging := rfl
@[simp] theorem emit_pendingSyncError : (emit e s).pendingSyncError = s.pendingSyncError := rfl
@[simp] theorem emit_rebootRequested : (emit e s).rebootRequested = s.rebootRequested := rfl
@[simp] theorem emit_cmdReg : (emit e s).cmdReg = s.cmdReg := rfl
@[simp] theorem emit_storeCount : (emit e s).storeCount = s.storeCount := rfl
@[simp] theorem emit_armed : (emit e s).armed = s.armed := rfl
@[simp] theorem emit_inFlight : (emit e s).inFlight = s.inFlight := rfl
@[simp] theorem emit_lastNow : (emit e s).lastNow = s.lastNow := rfl
@[simp] theorem emit_inputs : (emit e s).inputs = s.inputs := rfl
@[simp] theorem emit_out : (emit e s).out = s.out ++ [e] := rfl
@[simp] theorem emit_calls : (emit e s).calls = s.calls := rfl
@[simp] theorem emit_freeIndex : (emit e s).freeIndex = s.freeIndex := rfl

end

section
variable (c : Call) (s : State)

@[simp] theorem call_cfg : (call c s).cfg = s.cfg := rfl
@[simp] theorem call_ls : (call c s).ls = s.ls := rfl
@[simp] theorem call_associated : (call c s).associated = s.associated := rfl
@[simp] theorem call_deadline : (call c s).deadline = s.deadline := rfl
@[simp] theorem call_txFlag : (call c s).txFlag = s.txFlag := rfl
@[simp] theorem call_txRes : (call c s).txRes = s.txRes := rfl
@[simp] theorem call_rxFlag : (call c s).rxFlag = s.rxFlag := rfl
@[simp] theorem call_rxRes : (call c s).rxRes = s.rxRes := rfl
@[simp] theorem call_hold : (call c s).hold = s.hold := rfl
@[simp] theorem call_count : (call c s).count = s.count := rfl
@[simp] theorem call_resp : (call c s).resp = s.resp := rfl
@[simp] theorem call_txPending : (call c s).txPending = s.txPending := rfl
@[simp] theorem call_settleAt : (call c s).settleAt = s.settleAt := rfl
@[simp] theorem call_staging : (call c s).staging = s.staging := rfl
@[simp] theorem call_pendingSyncError : (call c s).pendingSyncError = s.pendingSyncError := rfl
@[simp] theorem call_rebootRequested : (call c s).rebootRequested = s.rebootRequested := rfl
@[simp] theorem call_cmdReg : (call c s).cmdReg = s.cmdReg := rfl
@[simp] theorem call_storeCount : (call c s).storeCount = s.storeCount := rfl
@[simp] theorem call_armed : (call c s).armed = s.armed := rfl
@[simp] theorem call_inFlight : (call c s).inFlight = s.inFlight := rfl
@[simp] theorem call_lastNow : (call c s).lastNow = s.lastNow := rfl
@[simp] theorem call_inputs : (call c s).inputs = s.inputs := rfl
@[simp] theorem call_out : (call c s).out = s.out := rfl
@[simp] theorem call_calls : (call c s).calls = s.calls ++ [c] := rfl
@[simp] theorem call_freeIndex : (call c s).freeIndex = s.freeIndex := rfl

end

section
variable (i : Nat) (w : Word) (s : State)

@[simp] theorem holdWrite_cfg : (holdWrite i w s).cfg = s.cfg := rfl
@[simp] theorem holdWrite_ls : (holdWrite i w s).ls = s.ls := rfl
@[simp] theorem holdWrite_associated : (holdWrite i w s).associated = s.associated := rfl
@[simp] theorem holdWrite_deadline : (holdWrite i w s).deadline = s.deadline := rfl
@[simp] theorem holdWrite_txFlag : (holdWrite i w s).txFlag = s.txFlag := rfl
@[simp] theorem holdWrite_txRes : (holdWrite i w s).txRes = s.txRes := rfl
@[simp] theorem holdWrite_rxFlag : (holdWrite i w s).rxFlag = s.rxFlag := rfl
@[simp] theorem holdWrite_rxRes : (holdWrite i w s).rxRes = s.rxRes := rfl
@[simp] theorem holdWrite_hold : (holdWrite i w s).hold = s.hold.set i w := rfl
@[simp] theorem holdWrite_count : (holdWrite i w s).count = s.count := rfl
@[simp] theorem holdWrite_resp : (holdWrite i w s).resp = s.resp := rfl
@[simp] theorem holdWrite_txPending : (holdWrite i w s).txPending = s.txPending := rfl
@[simp] theorem holdWrite_settleAt : (holdWrite i w s).settleAt = s.settleAt := rfl
@[simp] theorem holdWrite_staging : (holdWrite i w s).staging = s.staging := rfl
@[simp] theorem holdWrite_pendingSyncError : (holdWrite i w s).pendingSyncError = s.pendingSyncError := rfl
@[simp] theorem holdWrite_rebootRequested : (holdWrite i w s).rebootRequested = s.rebootRequested := rfl
@[simp] theorem holdWrite_cmdReg : (holdWrite i w s).cmdReg = s.cmdReg := rfl
@[simp] theorem holdWrite_storeCount : (holdWrite i w s).storeCount = s.storeCount := rfl
@[simp] theorem holdWrite_armed : (holdWrite i w s).armed = s.armed := rfl
@[simp] theorem holdWrite_inFlight : (holdWrite i w s).inFlight = s.inFlight := rfl
@[simp] theorem holdWrite_lastNow : (holdWrite i w s).lastNow = s.lastNow := rfl
@[simp] theorem holdWrite_inputs : (holdWrite i w s).inputs = s.inputs := rfl
@[simp] theorem holdWrite_out : (holdWrite i w s).out = s.out := rfl
@[simp] theorem holdWrite_calls : (holdWrite i w s).calls = s.calls := rfl
@[simp] theorem holdWrite_freeIndex : (holdWrite i w s).freeIndex = s.freeIndex := rfl

end

section
variable (r : TxResult) (s : State)

@[simp] theorem deliverTx_cfg : (deliverTx r s).cfg = s.cfg := rfl
@[simp] theorem deliverTx_ls : (deliverTx r s).ls = s.ls := rfl
@[simp] theorem deliverTx_associated : (deliverTx r s).associated = s.associated := rfl
@[simp] theorem deliverTx_deadline : (deliverTx r s).deadline = s.deadline := rfl
@[simp] theorem deliverTx_txFlag : (deliverTx r s).txFlag = true := rfl
@[simp] theorem deliverTx_txRes : (deliverTx r s).txRes = r := rfl
@[simp] theorem deliverTx_rxFlag : (deliverTx r s).rxFlag = s.rxFlag := rfl
@[simp] theorem deliverTx_rxRes : (deliverTx r s).rxRes = s.rxRes := rfl
@[simp] theorem deliverTx_hold : (deliverTx r s).hold = s.hold := rfl
@[simp] theorem deliverTx_count : (deliverTx r s).count = s.count := rfl
@[simp] theorem deliverTx_resp : (deliverTx r s).resp = s.resp := rfl
@[simp] theorem deliverTx_txPending : (deliverTx r s).txPending = s.txPending := rfl
@[simp] theorem deliverTx_settleAt : (deliverTx r s).settleAt = s.settleAt := rfl
@[simp] theorem deliverTx_staging : (deliverTx r s).staging = s.staging := rfl
@[simp] theorem deliverTx_pendingSyncError : (deliverTx r s).pendingSyncError = s.pendingSyncError := rfl
@[simp] theorem deliverTx_rebootRequested : (deliverTx r s).rebootRequested = s.rebootRequested := rfl
@[simp] theorem deliverTx_cmdReg : (deliverTx r s).cmdReg = s.cmdReg := rfl
@[simp] theorem deliverTx_storeCount : (deliverTx r s).storeCount = s.storeCount := rfl
@[simp] theorem deliverTx_armed : (deliverTx r s).armed = s.armed := rfl
@[simp] theorem deliverTx_inFlight : (deliverTx r s).inFlight = s.inFlight - 1 := rfl
@[simp] theorem deliverTx_lastNow : (deliverTx r s).lastNow = s.lastNow := rfl
@[simp] theorem deliverTx_inputs : (deliverTx r s).inputs = s.inputs := rfl
@[simp] theorem deliverTx_out : (deliverTx r s).out = s.out := rfl
@[simp] theorem deliverTx_calls : (deliverTx r s).calls = s.calls := rfl
@[simp] theorem deliverTx_freeIndex : (deliverTx r s).freeIndex = s.freeIndex := rfl

end

section
variable (q : RxResult) (s : State)

@[simp] theorem deliverRx_cfg : (deliverRx q s).cfg = s.cfg := rfl
@[simp] theorem deliverRx_ls : (deliverRx q s).ls = s.ls := rfl
@[simp] theorem deliverRx_associated : (deliverRx q s).associated = s.associated := rfl
@[simp] theorem deliverRx_deadline : (deliverRx q s).deadline = s.deadline := rfl
@[simp] theorem deliverRx_txFlag : (deliverRx q s).txFlag = s.txFlag := rfl
@[simp] theorem deliverRx_txRes : (deliverRx q s).txRes = s.txRes := rfl
@[simp] theorem deliverRx_rxFlag : (deliverRx q s).rxFlag = true := rfl
@[simp] theorem deliverRx_rxRes : (deliverRx q s).rxRes = q := rfl
@[simp] theorem deliverRx_hold : (deliverRx q s).hold = s.hold := rfl
@[simp] theorem deliverRx_count : (deliverRx q s).count = s.count := rfl
@[simp] theorem deliverRx_resp : (deliverRx q s).resp = s.resp := rfl
@[simp] theorem deliverRx_txPending : (deliverRx q s).txPending = s.txPending := rfl
@[simp] theorem deliverRx_settleAt : (deliverRx q s).settleAt = s.settleAt := rfl
@[simp] theorem deliverRx_staging : (deliverRx q s).staging = s.staging := rfl
@[simp] theorem deliverRx_pendingSyncError : (deliverRx q s).pendingSyncError = s.pendingSyncError := rfl
@[simp] theorem deliverRx_rebootRequested : (deliverRx q s).rebootRequested = s.rebootRequested := rfl
@[simp] theorem deliverRx_cmdReg : (deliverRx q s).cmdReg = s.cmdReg := rfl
@[simp] theorem deliverRx_storeCount : (deliverRx q s).storeCount = s.storeCount := rfl
@[simp] theorem deliverRx_armed : (deliverRx q s).armed = false := rfl
@[simp] theorem deliverRx_inFlight : (deliverRx q s).inFlight = s.inFlight := rfl
@[simp] theorem deliverRx_lastNow : (deliverRx q s).lastNow = s.lastNow := rfl
@[simp] theorem deliverRx_inputs : (deliverRx q s).inputs = s.inputs := rfl
@[simp] theorem deliverRx_out : (deliverRx q s).out = s.out := rfl
@[simp] theorem deliverRx_calls : (deliverRx q s).calls = s.calls := rfl
@[simp] theorem deliverRx_freeIndex : (deliverRx q s).freeIndex = s.freeIndex := rfl

end

section
variable (s : State)

@[simp] theorem drainTx_cfg : (drainTx s).cfg = s.cfg := rfl
@[simp] theorem drainTx_ls : (drainTx s).ls = s.ls := rfl
@[simp] theorem drainTx_associated : (drainTx s).associated = s.associated := rfl
@[simp] theorem drainTx_deadline : (drainTx s).deadline = s.deadline := rfl
@[simp] theorem drainTx_txFlag : (drainTx s).txFlag = false := rfl
@[simp] theorem drainTx_txRes : (drainTx s).txRes = s.txRes := rfl
@[simp] theorem drainTx_rxFlag : (drainTx s).rxFlag = s.rxFlag := rfl
@[simp] theorem drainTx_rxRes : (drainTx s).rxRes = s.rxRes := rfl
@[simp] theorem drainTx_hold : (drainTx s).hold = s.hold := rfl
@[simp] theorem drainTx_count : (drainTx s).count = s.count := rfl
@[simp] theorem drainTx_resp : (drainTx s).resp = s.resp := rfl
@[simp] theorem drainTx_txPending : (drainTx s).txPending = s.txPending := rfl
@[simp] theorem drainTx_settleAt : (drainTx s).settleAt = s.settleAt := rfl
@[simp] theorem drainTx_staging : (drainTx s).staging = s.staging := rfl
@[simp] theorem drainTx_pendingSyncError : (drainTx s).pendingSyncError = s.pendingSyncError := rfl
@[simp] theorem drainTx_rebootRequested : (drainTx s).rebootRequested = s.rebootRequested := rfl
@[simp] theorem drainTx_cmdReg : (drainTx s).cmdReg = s.cmdReg := rfl
@[simp] theorem drainTx_storeCount : (drainTx s).storeCount = s.storeCount := rfl
@[simp] theorem drainTx_armed : (drainTx s).armed = s.armed := rfl
@[simp] theorem drainTx_inFlight : (drainTx s).inFlight = s.inFlight := rfl
@[simp] theorem drainTx_lastNow : (drainTx s).lastNow = s.lastNow := rfl
@[simp] theorem drainTx_inputs : (drainTx s).inputs = s.inputs := rfl
@[simp] theorem drainTx_out : (drainTx s).out = s.out := rfl
@[simp] theorem drainTx_calls : (drainTx s).calls = s.calls := rfl
@[simp] theorem drainTx_freeIndex : (drainTx s).freeIndex = s.freeIndex := rfl

end

section
variable (s : State)

@[simp] theorem drainRx_cfg : (drainRx s).cfg = s.cfg := rfl
@[simp] theorem drainRx_ls : (drainRx s).ls = s.ls := rfl
@[simp] theorem drainRx_associated : (drainRx s).associated = s.associated := rfl
@[simp] theorem drainRx_deadline : (drainRx s).deadline = s.deadline := rfl
@[simp] theorem drainRx_txFlag : (drainRx s).txFlag = s.txFlag := rfl
@[simp] theorem drainRx_txRes : (drainRx s).txRes = s.txRes := rfl
@[simp] theorem drainRx_rxFlag : (drainRx s).rxFlag = false := rfl
@[simp] theorem drainRx_rxRes : (drainRx s).rxRes = s.rxRes := rfl
@[simp] theorem drainRx_hold : (drainRx s).hold = s.hold := rfl
@[simp] theorem drainRx_count : (drainRx s).count = s.count := rfl
@[simp] theorem drainRx_resp : (drainRx s).resp = s.resp := rfl
@[simp] theorem drainRx_txPending : (drainRx s).txPending = s.txPending := rfl
@[simp] theorem drainRx_settleAt : (drainRx s).settleAt = s.settleAt := rfl
@[simp] theorem drainRx_staging : (drainRx s).staging = s.staging := rfl
@[simp] theorem drainRx_pendingSyncError : (drainRx s).pendingSyncError = s.pendingSyncError := rfl
@[simp] theorem drainRx_rebootRequested : (drainRx s).rebootRequested = s.rebootRequested := rfl
@[simp] theorem drainRx_cmdReg : (drainRx s).cmdReg = s.cmdReg := rfl
@[simp] theorem drainRx_storeCount : (drainRx s).storeCount = s.storeCount := rfl
@[simp] theorem drainRx_armed : (drainRx s).armed = s.armed := rfl
@[simp] theorem drainRx_inFlight : (drainRx s).inFlight = s.inFlight := rfl
@[simp] theorem drainRx_lastNow : (drainRx s).lastNow = s.lastNow := rfl
@[simp] theorem drainRx_inputs : (drainRx s).inputs = s.inputs := rfl
@[simp] theorem drainRx_out : (drainRx s).out = s.out := rfl
@[simp] theorem drainRx_calls : (drainRx s).calls = s.calls := rfl
@[simp] theorem drainRx_freeIndex : (drainRx s).freeIndex = s.freeIndex := rfl

end

section
variable (w : Word) (s : State)

@[simp] theorem submit_cfg : (submit w s).cfg = s.cfg := rfl
@[simp] theorem submit_ls : (submit w s).ls = s.ls := rfl
@[simp] theorem submit_associated : (submit w s).associated = s.associated := rfl
@[simp] theorem submit_deadline : (submit w s).deadline = s.deadline := rfl
@[simp] theorem submit_txFlag : (submit w s).txFlag = false := rfl
@[simp] theorem submit_txRes : (submit w s).txRes = s.txRes := rfl
@[simp] theorem submit_rxFlag : (submit w s).rxFlag = s.rxFlag := rfl
@[simp] theorem submit_rxRes : (submit w s).rxRes = s.rxRes := rfl
@[simp] theorem submit_hold : (submit w s).hold = s.hold := rfl
@[simp] theorem submit_count : (submit w s).count = s.count := rfl
@[simp] theorem submit_resp : (submit w s).resp = s.resp := rfl
@[simp] theorem submit_txPending : (submit w s).txPending = s.txPending := rfl
@[simp] theorem submit_settleAt : (submit w s).settleAt = s.settleAt := rfl
@[simp] theorem submit_staging : (submit w s).staging = s.staging := rfl
@[simp] theorem submit_pendingSyncError : (submit w s).pendingSyncError = s.pendingSyncError := rfl
@[simp] theorem submit_rebootRequested : (submit w s).rebootRequested = s.rebootRequested := rfl
@[simp] theorem submit_cmdReg : (submit w s).cmdReg = s.cmdReg := rfl
@[simp] theorem submit_storeCount : (submit w s).storeCount = s.storeCount := rfl
@[simp] theorem submit_armed : (submit w s).armed = s.armed := rfl
@[simp] theorem submit_inFlight : (submit w s).inFlight = s.inFlight + 1 := rfl
@[simp] theorem submit_lastNow : (submit w s).lastNow = s.lastNow := rfl
@[simp] theorem submit_inputs : (submit w s).inputs = s.inputs := rfl
@[simp] theorem submit_out : (submit w s).out = s.out ++ [.submit (toFrame w)] := rfl
@[simp] theorem submit_calls : (submit w s).calls = s.calls := rfl
@[simp] theorem submit_freeIndex : (submit w s).freeIndex = s.freeIndex := rfl

end

section
variable (s : State)

@[simp] theorem armReceiver_cfg : (armReceiver s).cfg = s.cfg := rfl
@[simp] theorem armReceiver_ls : (armReceiver s).ls = s.ls := rfl
@[simp] theorem armReceiver_associated : (armReceiver s).associated = s.associated := rfl
@[simp] theorem armReceiver_deadline : (armReceiver s).deadline = s.deadline := rfl
@[simp] theorem armReceiver_txFlag : (armReceiver s).txFlag = s.txFlag := rfl
@[simp] theorem armReceiver_txRes : (armReceiver s).txRes = s.txRes := rfl
@[simp] theorem armReceiver_rxFlag : (armReceiver s).rxFlag = false := rfl
@[simp] theorem armReceiver_rxRes : (armReceiver s).rxRes = s.rxRes := rfl
@[simp] theorem armReceiver_hold : (armReceiver s).hold = s.hold := rfl
@[simp] theorem armReceiver_count : (armReceiver s).count = s.count := rfl
@[simp] theorem armReceiver_resp : (armReceiver s).resp = s.resp := rfl
@[simp] theorem armReceiver_txPending : (armReceiver s).txPending = s.txPending := rfl
@[simp] theorem armReceiver_settleAt : (armReceiver s).settleAt = s.settleAt := rfl
@[simp] theorem armReceiver_staging : (armReceiver s).staging = s.staging := rfl
@[simp] theorem armReceiver_pendingSyncError : (armReceiver s).pendingSyncError = s.pendingSyncError := rfl
@[simp] theorem armReceiver_rebootRequested : (armReceiver s).rebootRequested = s.rebootRequested := rfl
@[simp] theorem armReceiver_cmdReg : (armReceiver s).cmdReg = s.cmdReg := rfl
@[simp] theorem armReceiver_storeCount : (armReceiver s).storeCount = s.storeCount := rfl
@[simp] theorem armReceiver_armed : (armReceiver s).armed = true := rfl
@[simp] theorem armReceiver_inFlight : (armReceiver s).inFlight = s.inFlight := rfl
@[simp] theorem armReceiver_lastNow : (armReceiver s).lastNow = s.lastNow := rfl
@[simp] theorem armReceiver_inputs : (armReceiver s).inputs = s.inputs := rfl
@[simp] theorem armReceiver_out : (armReceiver s).out = s.out ++ [.armReceive] := rfl
@[simp] theorem armReceiver_calls : (armReceiver s).calls = s.calls := rfl
@[simp] theorem armReceiver_freeIndex : (armReceiver s).freeIndex = s.freeIndex := rfl

end

section
variable (i : Nat) (s : State)

@[simp] theorem storeDelete_cfg : (storeDelete i s).cfg = s.cfg := rfl
@[simp] theorem storeDelete_ls : (storeDelete i s).ls = s.ls := rfl
@[simp] theorem storeDelete_associated : (storeDelete i s).associated = s.associated := rfl
@[simp] theorem storeDelete_deadline : (storeDelete i s).deadline = s.deadline := rfl
@[simp] theorem storeDelete_txFlag : (storeDelete i s).txFlag = s.txFlag := rfl
@[simp] theorem storeDelete_txRes : (storeDelete i s).txRes = s.txRes := rfl
@[simp] theorem storeDelete_rxFlag : (storeDelete i s).rxFlag = s.rxFlag := rfl
@[simp] theorem storeDelete_rxRes : (storeDelete i s).rxRes = s.rxRes := rfl
@[simp] theorem storeDelete_hold : (storeDelete i s).hold = s.hold := rfl
@[simp] theorem storeDelete_count : (storeDelete i s).count = s.count := rfl
@[simp] theorem storeDelete_resp : (storeDelete i s).resp = s.resp := rfl
@[simp] theorem storeDelete_txPending : (storeDelete i s).txPending = s.txPending := rfl
@[simp] theorem storeDelete_settleAt : (storeDelete i s).settleAt = s.settleAt := rfl
@[simp] theorem storeDelete_staging : (storeDelete i s).staging = s.staging := rfl
@[simp] theorem storeDelete_pendingSyncError : (storeDelete i s).pendingSyncError = s.pendingSyncError := rfl
@[simp] theorem storeDelete_rebootRequested : (storeDelete i s).rebootRequested = s.rebootRequested := rfl
@[simp] theorem storeDelete_cmdReg : (storeDelete i s).cmdReg = s.cmdReg := rfl
@[simp] theorem storeDelete_storeCount : (storeDelete i s).storeCount = s.storeCount - 1 := rfl
@[simp] theorem storeDelete_armed : (storeDelete i s).armed = s.armed := rfl
@[simp] theorem storeDelete_inFlight : (storeDelete i s).inFlight = s.inFlight := rfl
@[simp] theorem storeDelete_lastNow : (storeDelete i s).lastNow = s.lastNow := rfl
@[simp] theorem storeDelete_inputs : (storeDelete i s).inputs = s.inputs := rfl
@[simp] theorem storeDelete_out : (storeDelete i s).out = s.out := rfl
@[simp] theorem storeDelete_calls : (storeDelete i s).calls = s.calls ++ [.delete i] := rfl
@[simp] theorem storeDelete_freeIndex : (storeDelete i s).freeIndex = s.freeIndex := rfl

end

section
variable (s : State)

@[simp] theorem storeDeleteAll_cfg : (storeDeleteAll s).cfg = s.cfg := rfl
@[simp] theorem storeDeleteAll_ls : (storeDeleteAll s).ls = s.ls := rfl
@[simp] theorem storeDeleteAll_associated : (storeDeleteAll s).associated = s.associated := rfl
@[simp] theorem storeDeleteAll_deadline : (storeDeleteAll s).deadline = s.deadline := rfl
@[simp] theorem storeDeleteAll_txFlag : (storeDeleteAll s).txFlag = s.txFlag := rfl
@[simp] theorem storeDeleteAll_txRes : (storeDeleteAll s).txRes = s.txRes := rfl
@[simp] theorem storeDeleteAll_rxFlag : (storeDeleteAll s).rxFlag = s.rxFlag := rfl
@[simp] theorem storeDeleteAll_rxRes : (storeDeleteAll s).rxRes = s.rxRes := rfl
@[simp] theorem storeDeleteAll_hold : (storeDeleteAll s).hold = s.hold := rfl
@[simp] theorem storeDeleteAll_count : (storeDeleteAll s).count = s.count := rfl
@[simp] theorem storeDeleteAll_resp : (storeDeleteAll s).resp = s.resp := rfl
@[simp] theorem storeDeleteAll_txPending : (storeDeleteAll s).txPending = s.txPending := rfl
@[simp] theorem storeDeleteAll_settleAt : (storeDeleteAll s).settleAt = s.settleAt := rfl
@[simp] theorem storeDeleteAll_staging : (storeDeleteAll s).staging = s.staging := rfl
@[simp] theorem storeDeleteAll_pendingSyncError : (storeDeleteAll s).pendingSyncError = s.pendingSyncError := rfl
@[simp] theorem storeDeleteAll_rebootRequested : (storeDeleteAll s).rebootRequested = s.rebootRequested := rfl
@[simp] theorem storeDeleteAll_cmdReg : (storeDeleteAll s).cmdReg = s.cmdReg := rfl
@[simp] theorem storeDeleteAll_storeCount : (storeDeleteAll s).storeCount = 0 := rfl
@[simp] theorem storeDeleteAll_armed : (storeDeleteAll s).armed = s.armed := rfl
@[simp] theorem storeDeleteAll_inFlight : (storeDeleteAll s).inFlight = s.inFlight := rfl
@[simp] theorem storeDeleteAll_lastNow : (storeDeleteAll s).lastNow = s.lastNow := rfl
@[simp] theorem storeDeleteAll_inputs : (storeDeleteAll s).inputs = s.inputs := rfl
@[simp] theorem storeDeleteAll_out : (storeDeleteAll s).out = s.out := rfl
@[simp] theorem storeDeleteAll_calls : (storeDeleteAll s).calls = s.calls ++ [.deleteAll] := rfl
@[simp] theorem storeDeleteAll_freeIndex : (storeDeleteAll s).freeIndex = s.freeIndex := rfl

end

section
variable (s : State)

@[simp] theorem desync_cfg : (desync s).cfg = s.cfg := rfl
@[simp] theorem desync_ls : (desync s).ls = s.ls := rfl
@[simp] theorem desync_associated : (desync s).associated = s.associated := rfl
@[simp] theorem desync_deadline : (desync s).deadline = s.deadline := rfl
@[simp] theorem desync_txFlag : (desync s).txFlag = s.txFlag := rfl
@[simp] theorem desync_txRes : (desync s).txRes = s.txRes := rfl
@[simp] theorem desync_rxFlag : (desync s).rxFlag = s.rxFlag := rfl
@[simp] theorem desync_rxRes : (desync s).rxRes = s.rxRes := rfl
@[simp] theorem desync_hold : (desync s).hold = s.hold := rfl
@[simp] theorem desync_count : (desync s).count = s.count := rfl
@[simp] theorem desync_resp : (desync s).resp = s.resp := rfl
@[simp] theorem desync_txPending : (desync s).txPending = s.txPending := rfl
@[simp] theorem desync_settleAt : (desync s).settleAt = s.settleAt := rfl
@[simp] theorem desync_staging : (desync s).staging = s.staging := rfl
@[simp] theorem desync_pendingSyncError : (desync s).pendingSyncError = true := rfl
@[simp] theorem desync_rebootRequested : (desync s).rebootRequested = s.rebootRequested := rfl
@[simp] theorem desync_cmdReg : (desync s).cmdReg = s.cmdReg := rfl
@[simp] theorem desync_storeCount : (desync s).storeCount = 0 := rfl
@[simp] theorem desync_armed : (desync s).armed = s.armed := rfl
@[simp] theorem desync_inFlight : (desync s).inFlight = s.inFlight := rfl
@[simp] theorem desync_lastNow : (desync s).lastNow = s.lastNow := rfl
@[simp] theorem desync_inputs : (desync s).inputs = s.inputs := rfl
@[simp] theorem desync_out : (desync s).out = s.out := rfl
@[simp] theorem desync_calls : (desync s).calls = s.calls ++ [.deleteAll] := rfl
@[simp] theorem desync_freeIndex : (desync s).freeIndex = s.freeIndex := rfl

end

section
variable (s : State)

@[simp] theorem respond_cfg : (respond s).cfg = s.cfg := rfl
@[simp] theorem respond_ls : (respond s).ls = s.ls := rfl
@[simp] theorem respond_associated : (respond s).associated = s.associated := rfl
@[simp] theorem respond_deadline : (respond s).deadline = s.deadline := rfl
@[simp] theorem respond_txFlag : (respond s).txFlag = s.txFlag := rfl
@[simp] theorem respond_txRes : (respond s).txRes = s.txRes := rfl
@[simp] theorem respond_rxFlag : (respond s).rxFlag = s.rxFlag := rfl
@[simp] theorem respond_rxRes : (respond s).rxRes = s.rxRes := rfl
@[simp] theorem respond_hold : (respond s).hold = s.hold := rfl
@[simp] theorem respond_count : (respond s).count = s.count := rfl
@[simp] theorem respond_resp : (respond s).resp = responseWord s := rfl
@[simp] theorem respond_txPending : (respond s).txPending = s.txPending := rfl
@[simp] theorem respond_settleAt : (respond s).settleAt = s.settleAt := rfl
@[simp] theorem respond_staging : (respond s).staging = s.staging := rfl
@[simp] theorem respond_pendingSyncError : (respond s).pendingSyncError = s.pendingSyncError := rfl
@[simp] theorem respond_rebootRequested : (respond s).rebootRequested = s.rebootRequested := rfl
@[simp] theorem respond_cmdReg : (respond s).cmdReg = if s.pendingSyncError then syncErrorWord s.cfg.opc else 0 := rfl
@[simp] theorem respond_storeCount : (respond s).storeCount = s.storeCount := rfl
@[simp] theorem respond_armed : (respond s).armed = s.armed := rfl
@[simp] theorem respond_inFlight : (respond s).inFlight = s.inFlight := rfl
@[simp] theorem respond_lastNow : (respond s).lastNow = s.lastNow := rfl
@[simp] theorem respond_inputs : (respond s).inputs = s.inputs := rfl
@[simp] theorem respond_out : (respond s).out = s.out := rfl
@[simp] theorem respond_calls : (respond s).calls = s.calls := rfl
@[simp] theorem respond_freeIndex : (respond s).freeIndex = s.freeIndex := rfl

end

section
variable (s : State)

@[simp] theorem clearTrace_cfg : (clearTrace s).cfg = s.cfg := rfl
@[simp] theorem clearTrace_ls : (clearTrace s).ls = s.ls := rfl
@[simp] theorem clearTrace_associated : (clearTrace s).associated = s.associated := rfl
@[simp] theorem clearTrace_deadline : (clearTrace s).deadline = s.deadline := rfl
@[simp] theorem clearTrace_txFlag : (clearTrace s).txFlag = s.txFlag := rfl
@[simp] theorem clearTrace_txRes : (clearTrace s).txRes = s.txRes := rfl
@[simp] theorem clearTrace_rxFlag : (clearTrace s).rxFlag = s.rxFlag := rfl
@[simp] theorem clearTrace_rxRes : (clearTrace s).rxRes = s.rxRes := rfl
@[simp] theorem clearTrace_hold : (clearTrace s).hold = s.hold := rfl
@[simp] theorem clearTrace_count : (clearTrace s).count = s.count := rfl
@[simp] theorem clearTrace_resp : (clearTrace s).resp = s.resp := rfl
@[simp] theorem clearTrace_txPending : (clearTrace s).txPending = s.txPending := rfl
@[simp] theorem clearTrace_settleAt : (clearTrace s).settleAt = s.settleAt := rfl
@[simp] theorem clearTrace_staging : (clearTrace s).staging = s.staging := rfl
@[simp] theorem clearTrace_pendingSyncError : (clearTrace s).pendingSyncError = s.pendingSyncError := rfl
@[simp] theorem clearTrace_rebootRequested : (clearTrace s).rebootRequested = s.rebootRequested := rfl
@[simp] theorem clearTrace_cmdReg : (clearTrace s).cmdReg = s.cmdReg := rfl
@[simp] theorem clearTrace_storeCount : (clearTrace s).storeCount = s.storeCount := rfl
@[simp] theorem clearTrace_armed : (clearTrace s).armed = s.armed := rfl
@[simp] theorem clearTrace_inFlight : (clearTrace s).inFlight = s.inFlight := rfl
@[simp] theorem clearTrace_lastNow : (clearTrace s).lastNow = s.lastNow := rfl
@[simp] theorem clearTrace_inputs : (clearTrace s).inputs = s.inputs := rfl
@[simp] theorem clearTrace_out : (clearTrace s).out = [] := rfl
@[simp] theorem clearTrace_calls : (clearTrace s).calls = [] := rfl
@[simp] theorem clearTrace_freeIndex : (clearTrace s).freeIndex = s.freeIndex := rfl

end

section
variable (i : Input) (s : State)

@[simp] theorem given_cfg : (State.given i s).cfg = s.cfg := rfl
@[simp] theorem given_ls : (State.given i s).ls = s.ls := rfl
@[simp] theorem given_associated : (State.given i s).associated = s.associated := rfl
@[simp] theorem given_deadline : (State.given i s).deadline = s.deadline := rfl
@[simp] theorem given_txFlag : (State.given i s).txFlag = s.txFlag := rfl
@[simp] theorem given_txRes : (State.given i s).txRes = s.txRes := rfl
@[simp] theorem given_rxFlag : (State.given i s).rxFlag = s.rxFlag := rfl
@[simp] theorem given_rxRes : (State.given i s).rxRes = s.rxRes := rfl
@[simp] theorem given_hold : (State.given i s).hold = s.hold := rfl
@[simp] theorem given_count : (State.given i s).count = s.count := rfl
@[simp] theorem given_resp : (State.given i s).resp = s.resp := rfl
@[simp] theorem given_txPending : (State.given i s).txPending = s.txPending := rfl
@[simp] theorem given_settleAt : (State.given i s).settleAt = s.settleAt := rfl
@[simp] theorem given_staging : (State.given i s).staging = s.staging := rfl
@[simp] theorem given_pendingSyncError : (State.given i s).pendingSyncError = s.pendingSyncError := rfl
@[simp] theorem given_rebootRequested : (State.given i s).rebootRequested = s.rebootRequested := rfl
@[simp] theorem given_cmdReg : (State.given i s).cmdReg = s.cmdReg := rfl
@[simp] theorem given_storeCount : (State.given i s).storeCount = s.storeCount := rfl
@[simp] theorem given_armed : (State.given i s).armed = s.armed := rfl
@[simp] theorem given_inFlight : (State.given i s).inFlight = s.inFlight := rfl
@[simp] theorem given_lastNow : (State.given i s).lastNow = s.lastNow := rfl
@[simp] theorem given_inputs : (State.given i s).inputs = [i] := rfl
@[simp] theorem given_out : (State.given i s).out = s.out := rfl
@[simp] theorem given_calls : (State.given i s).calls = s.calls := rfl
@[simp] theorem given_freeIndex : (State.given i s).freeIndex = s.freeIndex := rfl

end

section
variable (w : Word) (s : State)

@[simp] theorem beginDispatch_cfg : (beginDispatch w s).cfg = s.cfg := rfl
@[simp] theorem beginDispatch_ls : (beginDispatch w s).ls = s.ls := rfl
@[simp] theorem beginDispatch_associated : (beginDispatch w s).associated = s.associated := rfl
@[simp] theorem beginDispatch_deadline : (beginDispatch w s).deadline = s.deadline := rfl
@[simp] theorem beginDispatch_txFlag : (beginDispatch w s).txFlag = s.txFlag := rfl
@[simp] theorem beginDispatch_txRes : (beginDispatch w s).txRes = s.txRes := rfl
@[simp] theorem beginDispatch_rxFlag : (beginDispatch w s).rxFlag = s.rxFlag := rfl
@[simp] theorem beginDispatch_rxRes : (beginDispatch w s).rxRes = s.rxRes := rfl
@[simp] theorem beginDispatch_hold : (beginDispatch w s).hold = s.hold := rfl
@[simp] theorem beginDispatch_count : (beginDispatch w s).count = s.count := rfl
@[simp] theorem beginDispatch_resp : (beginDispatch w s).resp = s.resp := rfl
@[simp] theorem beginDispatch_txPending : (beginDispatch w s).txPending = s.txPending := rfl
@[simp] theorem beginDispatch_settleAt : (beginDispatch w s).settleAt = s.settleAt := rfl
@[simp] theorem beginDispatch_staging : (beginDispatch w s).staging = s.staging := rfl
@[simp] theorem beginDispatch_pendingSyncError : (beginDispatch w s).pendingSyncError = s.pendingSyncError := rfl
@[simp] theorem beginDispatch_rebootRequested : (beginDispatch w s).rebootRequested = s.rebootRequested := rfl
@[simp] theorem beginDispatch_cmdReg : (beginDispatch w s).cmdReg = w := rfl
@[simp] theorem beginDispatch_storeCount : (beginDispatch w s).storeCount = s.storeCount := rfl
@[simp] theorem beginDispatch_armed : (beginDispatch w s).armed = s.armed := rfl
@[simp] theorem beginDispatch_inFlight : (beginDispatch w s).inFlight = s.inFlight := rfl
@[simp] theorem beginDispatch_lastNow : (beginDispatch w s).lastNow = s.lastNow := rfl
@[simp] theorem beginDispatch_inputs : (beginDispatch w s).inputs = s.inputs := rfl
@[simp] theorem beginDispatch_out : (beginDispatch w s).out = s.out ++ [.dispatch w] := rfl
@[simp] theorem beginDispatch_calls : (beginDispatch w s).calls = s.calls := rfl
@[simp] theorem beginDispatch_freeIndex : (beginDispatch w s).freeIndex = s.freeIndex := rfl

end

section
variable (now : Nat) (s : State)

@[simp] theorem beginResponse_cfg : (beginResponse now s).cfg = s.cfg := rfl
@[simp] theorem beginResponse_ls : (beginResponse now s).ls = .send := rfl
@[simp] theorem beginResponse_associated : (beginResponse now s).associated = s.associated := rfl
@[simp] theorem beginResponse_deadline : (beginResponse now s).deadline = now + s.cfg.w := rfl
@[simp] theorem beginResponse_txFlag : (beginResponse now s).txFlag = s.txFlag := rfl
@[simp] theorem beginResponse_txRes : (beginResponse now s).txRes = s.txRes := rfl
@[simp] theorem beginResponse_rxFlag : (beginResponse now s).rxFlag = s.rxFlag := rfl
@[simp] theorem beginResponse_rxRes : (beginResponse now s).rxRes = s.rxRes := rfl
@[simp] theorem beginResponse_hold : (beginResponse now s).hold = s.hold := rfl
@[simp] theorem beginResponse_count : (beginResponse now s).count = s.count := rfl
@[simp] theorem beginResponse_resp : (beginResponse now s).resp = s.resp := rfl
@[simp] theorem beginResponse_txPending : (beginResponse now s).txPending = true := rfl
@[simp] theorem beginResponse_settleAt : (beginResponse now s).settleAt = now + s.cfg.s := rfl
@[simp] theorem beginResponse_staging : (beginResponse now s).staging = s.staging := rfl
@[simp] theorem beginResponse_pendingSyncError : (beginResponse now s).pendingSyncError = s.pendingSyncError := rfl
@[simp] theorem beginResponse_rebootRequested : (beginResponse now s).rebootRequested = s.rebootRequested := rfl
@[simp] theorem beginResponse_cmdReg : (beginResponse now s).cmdReg = s.cmdReg := rfl
@[simp] theorem beginResponse_storeCount : (beginResponse now s).storeCount = s.storeCount := rfl
@[simp] theorem beginResponse_armed : (beginResponse now s).armed = s.armed := rfl
@[simp] theorem beginResponse_inFlight : (beginResponse now s).inFlight = s.inFlight := rfl
@[simp] theorem beginResponse_lastNow : (beginResponse now s).lastNow = s.lastNow := rfl
@[simp] theorem beginResponse_inputs : (beginResponse now s).inputs = s.inputs := rfl
@[simp] theorem beginResponse_out : (beginResponse now s).out = s.out := rfl
@[simp] theorem beginResponse_calls : (beginResponse now s).calls = s.calls := rfl
@[simp] theorem beginResponse_freeIndex : (beginResponse now s).freeIndex = s.freeIndex := rfl

end

section
variable (l : LinkState) (s : State)

@[simp] theorem goTo_cfg : (goTo l s).cfg = s.cfg := rfl
@[simp] theorem goTo_ls : (goTo l s).ls = l := rfl
@[simp] theorem goTo_associated : (goTo l s).associated = s.associated := rfl
@[simp] theorem goTo_deadline : (goTo l s).deadline = s.deadline := rfl
@[simp] theorem goTo_txFlag : (goTo l s).txFlag = s.txFlag := rfl
@[simp] theorem goTo_txRes : (goTo l s).txRes = s.txRes := rfl
@[simp] theorem goTo_rxFlag : (goTo l s).rxFlag = s.rxFlag := rfl
@[simp] theorem goTo_rxRes : (goTo l s).rxRes = s.rxRes := rfl
@[simp] theorem goTo_hold : (goTo l s).hold = s.hold := rfl
@[simp] theorem goTo_count : (goTo l s).count = s.count := rfl
@[simp] theorem goTo_resp : (goTo l s).resp = s.resp := rfl
@[simp] theorem goTo_txPending : (goTo l s).txPending = s.txPending := rfl
@[simp] theorem goTo_settleAt : (goTo l s).settleAt = s.settleAt := rfl
@[simp] theorem goTo_staging : (goTo l s).staging = s.staging := rfl
@[simp] theorem goTo_pendingSyncError : (goTo l s).pendingSyncError = s.pendingSyncError := rfl
@[simp] theorem goTo_rebootRequested : (goTo l s).rebootRequested = s.rebootRequested := rfl
@[simp] theorem goTo_cmdReg : (goTo l s).cmdReg = s.cmdReg := rfl
@[simp] theorem goTo_storeCount : (goTo l s).storeCount = s.storeCount := rfl
@[simp] theorem goTo_armed : (goTo l s).armed = s.armed := rfl
@[simp] theorem goTo_inFlight : (goTo l s).inFlight = s.inFlight := rfl
@[simp] theorem goTo_lastNow : (goTo l s).lastNow = s.lastNow := rfl
@[simp] theorem goTo_inputs : (goTo l s).inputs = s.inputs := rfl
@[simp] theorem goTo_out : (goTo l s).out = s.out := rfl
@[simp] theorem goTo_calls : (goTo l s).calls = s.calls := rfl
@[simp] theorem goTo_freeIndex : (goTo l s).freeIndex = s.freeIndex := rfl

end

section
variable (t : Nat) (s : State)

@[simp] theorem setTimer_cfg : (setTimer t s).cfg = s.cfg := rfl
@[simp] theorem setTimer_ls : (setTimer t s).ls = s.ls := rfl
@[simp] theorem setTimer_associated : (setTimer t s).associated = s.associated := rfl
@[simp] theorem setTimer_deadline : (setTimer t s).deadline = t := rfl
@[simp] theorem setTimer_txFlag : (setTimer t s).txFlag = s.txFlag := rfl
@[simp] theorem setTimer_txRes : (setTimer t s).txRes = s.txRes := rfl
@[simp] theorem setTimer_rxFlag : (setTimer t s).rxFlag = s.rxFlag := rfl
@[simp] theorem setTimer_rxRes : (setTimer t s).rxRes = s.rxRes := rfl
@[simp] theorem setTimer_hold : (setTimer t s).hold = s.hold := rfl
@[simp] theorem setTimer_count : (setTimer t s).count = s.count := rfl
@[simp] theorem setTimer_resp : (setTimer t s).resp = s.resp := rfl
@[simp] theorem setTimer_txPending : (setTimer t s).txPending = s.txPending := rfl
@[simp] theorem setTimer_settleAt : (setTimer t s).settleAt = s.settleAt := rfl
@[simp] theorem setTimer_staging : (setTimer t s).staging = s.staging := rfl
@[simp] theorem setTimer_pendingSyncError : (setTimer t s).pendingSyncError = s.pendingSyncError := rfl
@[simp] theorem setTimer_rebootRequested : (setTimer t s).rebootRequested = s.rebootRequested := rfl
@[simp] theorem setTimer_cmdReg : (setTimer t s).cmdReg = s.cmdReg := rfl
@[simp] theorem setTimer_storeCount : (setTimer t s).storeCount = s.storeCount := rfl
@[simp] theorem setTimer_armed : (setTimer t s).armed = s.armed := rfl
@[simp] theorem setTimer_inFlight : (setTimer t s).inFlight = s.inFlight := rfl
@[simp] theorem setTimer_lastNow : (setTimer t s).lastNow = s.lastNow := rfl
@[simp] theorem setTimer_inputs : (setTimer t s).inputs = s.inputs := rfl
@[simp] theorem setTimer_out : (setTimer t s).out = s.out := rfl
@[simp] theorem setTimer_calls : (setTimer t s).calls = s.calls := rfl
@[simp] theorem setTimer_freeIndex : (setTimer t s).freeIndex = s.freeIndex := rfl

end

section
variable (s : State)

@[simp] theorem clearPending_cfg : (clearPending s).cfg = s.cfg := rfl
@[simp] theorem clearPending_ls : (clearPending s).ls = s.ls := rfl
@[simp] theorem clearPending_associated : (clearPending s).associated = s.associated := rfl
@[simp] theorem clearPending_deadline : (clearPending s).deadline = s.deadline := rfl
@[simp] theorem clearPending_txFlag : (clearPending s).txFlag = s.txFlag := rfl
@[simp] theorem clearPending_txRes : (clearPending s).txRes = s.txRes := rfl
@[simp] theorem clearPending_rxFlag : (clearPending s).rxFlag = s.rxFlag := rfl
@[simp] theorem clearPending_rxRes : (clearPending s).rxRes = s.rxRes := rfl
@[simp] theorem clearPending_hold : (clearPending s).hold = s.hold := rfl
@[simp] theorem clearPending_count : (clearPending s).count = s.count := rfl
@[simp] theorem clearPending_resp : (clearPending s).resp = s.resp := rfl
@[simp] theorem clearPending_txPending : (clearPending s).txPending = s.txPending := rfl
@[simp] theorem clearPending_settleAt : (clearPending s).settleAt = s.settleAt := rfl
@[simp] theorem clearPending_staging : (clearPending s).staging = s.staging := rfl
@[simp] theorem clearPending_pendingSyncError : (clearPending s).pendingSyncError = false := rfl
@[simp] theorem clearPending_rebootRequested : (clearPending s).rebootRequested = s.rebootRequested := rfl
@[simp] theorem clearPending_cmdReg : (clearPending s).cmdReg = s.cmdReg := rfl
@[simp] theorem clearPending_storeCount : (clearPending s).storeCount = s.storeCount := rfl
@[simp] theorem clearPending_armed : (clearPending s).armed = s.armed := rfl
@[simp] theorem clearPending_inFlight : (clearPending s).inFlight = s.inFlight := rfl
@[simp] theorem clearPending_lastNow : (clearPending s).lastNow = s.lastNow := rfl
@[simp] theorem clearPending_inputs : (clearPending s).inputs = s.inputs := rfl
@[simp] theorem clearPending_out : (clearPending s).out = s.out := rfl
@[simp] theorem clearPending_calls : (clearPending s).calls = s.calls := rfl
@[simp] theorem clearPending_freeIndex : (clearPending s).freeIndex = s.freeIndex := rfl

end

section
variable (s : State)

@[simp] theorem dropResponse_cfg : (dropResponse s).cfg = s.cfg := rfl
@[simp] theorem dropResponse_ls : (dropResponse s).ls = s.ls := rfl
@[simp] theorem dropResponse_associated : (dropResponse s).associated = s.associated := rfl
@[simp] theorem dropResponse_deadline : (dropResponse s).deadline = s.deadline := rfl
@[simp] theorem dropResponse_txFlag : (dropResponse s).txFlag = s.txFlag := rfl
@[simp] theorem dropResponse_txRes : (dropResponse s).txRes = s.txRes := rfl
@[simp] theorem dropResponse_rxFlag : (dropResponse s).rxFlag = s.rxFlag := rfl
@[simp] theorem dropResponse_rxRes : (dropResponse s).rxRes = s.rxRes := rfl
@[simp] theorem dropResponse_hold : (dropResponse s).hold = s.hold := rfl
@[simp] theorem dropResponse_count : (dropResponse s).count = s.count := rfl
@[simp] theorem dropResponse_resp : (dropResponse s).resp = s.resp := rfl
@[simp] theorem dropResponse_txPending : (dropResponse s).txPending = false := rfl
@[simp] theorem dropResponse_settleAt : (dropResponse s).settleAt = s.settleAt := rfl
@[simp] theorem dropResponse_staging : (dropResponse s).staging = s.staging := rfl
@[simp] theorem dropResponse_pendingSyncError : (dropResponse s).pendingSyncError = s.pendingSyncError := rfl
@[simp] theorem dropResponse_rebootRequested : (dropResponse s).rebootRequested = s.rebootRequested := rfl
@[simp] theorem dropResponse_cmdReg : (dropResponse s).cmdReg = s.cmdReg := rfl
@[simp] theorem dropResponse_storeCount : (dropResponse s).storeCount = s.storeCount := rfl
@[simp] theorem dropResponse_armed : (dropResponse s).armed = s.armed := rfl
@[simp] theorem dropResponse_inFlight : (dropResponse s).inFlight = s.inFlight := rfl
@[simp] theorem dropResponse_lastNow : (dropResponse s).lastNow = s.lastNow := rfl
@[simp] theorem dropResponse_inputs : (dropResponse s).inputs = s.inputs := rfl
@[simp] theorem dropResponse_out : (dropResponse s).out = s.out := rfl
@[simp] theorem dropResponse_calls : (dropResponse s).calls = s.calls := rfl
@[simp] theorem dropResponse_freeIndex : (dropResponse s).freeIndex = s.freeIndex := rfl

end

section
variable (now : Nat) (s : State)

@[simp] theorem stamp_cfg : (stamp now s).cfg = s.cfg := rfl
@[simp] theorem stamp_ls : (stamp now s).ls = s.ls := rfl
@[simp] theorem stamp_associated : (stamp now s).associated = s.associated := rfl
@[simp] theorem stamp_deadline : (stamp now s).deadline = s.deadline := rfl
@[simp] theorem stamp_txFlag : (stamp now s).txFlag = s.txFlag := rfl
@[simp] theorem stamp_txRes : (stamp now s).txRes = s.txRes := rfl
@[simp] theorem stamp_rxFlag : (stamp now s).rxFlag = s.rxFlag := rfl
@[simp] theorem stamp_rxRes : (stamp now s).rxRes = s.rxRes := rfl
@[simp] theorem stamp_hold : (stamp now s).hold = s.hold := rfl
@[simp] theorem stamp_count : (stamp now s).count = s.count := rfl
@[simp] theorem stamp_resp : (stamp now s).resp = s.resp := rfl
@[simp] theorem stamp_txPending : (stamp now s).txPending = s.txPending := rfl
@[simp] theorem stamp_settleAt : (stamp now s).settleAt = s.settleAt := rfl
@[simp] theorem stamp_staging : (stamp now s).staging = s.staging := rfl
@[simp] theorem stamp_pendingSyncError : (stamp now s).pendingSyncError = s.pendingSyncError := rfl
@[simp] theorem stamp_rebootRequested : (stamp now s).rebootRequested = s.rebootRequested := rfl
@[simp] theorem stamp_cmdReg : (stamp now s).cmdReg = s.cmdReg := rfl
@[simp] theorem stamp_storeCount : (stamp now s).storeCount = s.storeCount := rfl
@[simp] theorem stamp_armed : (stamp now s).armed = s.armed := rfl
@[simp] theorem stamp_inFlight : (stamp now s).inFlight = s.inFlight := rfl
@[simp] theorem stamp_lastNow : (stamp now s).lastNow = now := rfl
@[simp] theorem stamp_inputs : (stamp now s).inputs = s.inputs := rfl
@[simp] theorem stamp_out : (stamp now s).out = s.out := rfl
@[simp] theorem stamp_calls : (stamp now s).calls = s.calls := rfl
@[simp] theorem stamp_freeIndex : (stamp now s).freeIndex = s.freeIndex := rfl

end

section
variable (rest : List Input) (s : State)

@[simp] theorem setInputs_cfg : (setInputs rest s).cfg = s.cfg := rfl
@[simp] theorem setInputs_ls : (setInputs rest s).ls = s.ls := rfl
@[simp] theorem setInputs_associated : (setInputs rest s).associated = s.associated := rfl
@[simp] theorem setInputs_deadline : (setInputs rest s).deadline = s.deadline := rfl
@[simp] theorem setInputs_txFlag : (setInputs rest s).txFlag = s.txFlag := rfl
@[simp] theorem setInputs_txRes : (setInputs rest s).txRes = s.txRes := rfl
@[simp] theorem setInputs_rxFlag : (setInputs rest s).rxFlag = s.rxFlag := rfl
@[simp] theorem setInputs_rxRes : (setInputs rest s).rxRes = s.rxRes := rfl
@[simp] theorem setInputs_hold : (setInputs rest s).hold = s.hold := rfl
@[simp] theorem setInputs_count : (setInputs rest s).count = s.count := rfl
@[simp] theorem setInputs_resp : (setInputs rest s).resp = s.resp := rfl
@[simp] theorem setInputs_txPending : (setInputs rest s).txPending = s.txPending := rfl
@[simp] theorem setInputs_settleAt : (setInputs rest s).settleAt = s.settleAt := rfl
@[simp] theorem setInputs_staging : (setInputs rest s).staging = s.staging := rfl
@[simp] theorem setInputs_pendingSyncError : (setInputs rest s).pendingSyncError = s.pendingSyncError := rfl
@[simp] theorem setInputs_rebootRequested : (setInputs rest s).rebootRequested = s.rebootRequested := rfl
@[simp] theorem setInputs_cmdReg : (setInputs rest s).cmdReg = s.cmdReg := rfl
@[simp] theorem setInputs_storeCount : (setInputs rest s).storeCount = s.storeCount := rfl
@[simp] theorem setInputs_armed : (setInputs rest s).armed = s.armed := rfl
@[simp] theorem setInputs_inFlight : (setInputs rest s).inFlight = s.inFlight := rfl
@[simp] theorem setInputs_lastNow : (setInputs rest s).lastNow = s.lastNow := rfl
@[simp] theorem setInputs_inputs : (setInputs rest s).inputs = rest := rfl
@[simp] theorem setInputs_out : (setInputs rest s).out = s.out := rfl
@[simp] theorem setInputs_calls : (setInputs rest s).calls = s.calls := rfl
@[simp] theorem setInputs_freeIndex : (setInputs rest s).freeIndex = s.freeIndex := rfl

end

section
variable (w : Word) (s : State)

@[simp] theorem pushHold_cfg : (pushHold w s).cfg = s.cfg := by
  unfold pushHold; split <;> rfl
@[simp] theorem pushHold_ls : (pushHold w s).ls = s.ls := by
  unfold pushHold; split <;> rfl
@[simp] theorem pushHold_associated : (pushHold w s).associated = s.associated := by
  unfold pushHold; split <;> rfl
@[simp] theorem pushHold_deadline : (pushHold w s).deadline = s.deadline := by
  unfold pushHold; split <;> rfl
@[simp] theorem pushHold_txFlag : (pushHold w s).txFlag = s.txFlag := by
  unfold pushHold; split <;> rfl
@[simp] theorem pushHold_txRes : (pushHold w s).txRes = s.txRes := by
  unfold pushHold; split <;> rfl
@[simp] theorem pushHold_rxFlag : (pushHold w s).rxFlag = s.rxFlag := by
  unfold pushHold; split <;> rfl
@[simp] theorem pushHold_rxRes : (pushHold w s).rxRes = s.rxRes := by
  unfold pushHold; split <;> rfl
@[simp] theorem pushHold_resp : (pushHold w s).resp = s.resp := by
  unfold pushHold; split <;> rfl
@[simp] theorem pushHold_txPending : (pushHold w s).txPending = s.txPending := by
  unfold pushHold; split <;> rfl
@[simp] theorem pushHold_settleAt : (pushHold w s).settleAt = s.settleAt := by
  unfold pushHold; split <;> rfl
@[simp] theorem pushHold_staging : (pushHold w s).staging = s.staging := by
  unfold pushHold; split <;> rfl
@[simp] theorem pushHold_pendingSyncError : (pushHold w s).pendingSyncError = s.pendingSyncError := by
  unfold pushHold; split <;> rfl
@[simp] theorem pushHold_rebootRequested : (pushHold w s).rebootRequested = s.rebootRequested := by
  unfold pushHold; split <;> rfl
@[simp] theorem pushHold_cmdReg : (pushHold w s).cmdReg = s.cmdReg := by
  unfold pushHold; split <;> rfl
@[simp] theorem pushHold_storeCount : (pushHold w s).storeCount = s.storeCount := by
  unfold pushHold; split <;> rfl
@[simp] theorem pushHold_armed : (pushHold w s).armed = s.armed := by
  unfold pushHold; split <;> rfl
@[simp] theorem pushHold_inFlight : (pushHold w s).inFlight = s.inFlight := by
  unfold pushHold; split <;> rfl
@[simp] theorem pushHold_lastNow : (pushHold w s).lastNow = s.lastNow := by
  unfold pushHold; split <;> rfl
@[simp] theorem pushHold_inputs : (pushHold w s).inputs = s.inputs := by
  unfold pushHold; split <;> rfl
@[simp] theorem pushHold_out : (pushHold w s).out = s.out := by
  unfold pushHold; split <;> rfl
@[simp] theorem pushHold_calls : (pushHold w s).calls = s.calls := by
  unfold pushHold; split <;> rfl
@[simp] theorem pushHold_freeIndex : (pushHold w s).freeIndex = s.freeIndex := by
  unfold pushHold; split <;> rfl

end

section
variable (s : State)

@[simp] theorem popTop_cfg : (popTop s).cfg = s.cfg := by
  unfold popTop; split <;> rfl
@[simp] theorem popTop_ls : (popTop s).ls = s.ls := by
  unfold popTop; split <;> rfl
@[simp] theorem popTop_associated : (popTop s).associated = s.associated := by
  unfold popTop; split <;> rfl
@[simp] theorem popTop_deadline : (popTop s).deadline = s.deadline := by
  unfold popTop; split <;> rfl
@[simp] theorem popTop_txFlag : (popTop s).txFlag = s.txFlag := by
  unfold popTop; split <;> rfl
@[simp] theorem popTop_txRes : (popTop s).txRes = s.txRes := by
  unfold popTop; split <;> rfl
@[simp] theorem popTop_rxFlag : (popTop s).rxFlag = s.rxFlag := by
  unfold popTop; split <;> rfl
@[simp] theorem popTop_rxRes : (popTop s).rxRes = s.rxRes := by
  unfold popTop; split <;> rfl
@[simp] theorem popTop_hold : (popTop s).hold = s.hold := by
  unfold popTop; split <;> rfl
@[simp] theorem popTop_resp : (popTop s).resp = s.resp := by
  unfold popTop; split <;> rfl
@[simp] theorem popTop_txPending : (popTop s).txPending = s.txPending := by
  unfold popTop; split <;> rfl
@[simp] theorem popTop_settleAt : (popTop s).settleAt = s.settleAt := by
  unfold popTop; split <;> rfl
@[simp] theorem popTop_staging : (popTop s).staging = s.staging := by
  unfold popTop; split <;> rfl
@[simp] theorem popTop_pendingSyncError : (popTop s).pendingSyncError = s.pendingSyncError := by
  unfold popTop; split <;> rfl
@[simp] theorem popTop_rebootRequested : (popTop s).rebootRequested = s.rebootRequested := by
  unfold popTop; split <;> rfl
@[simp] theorem popTop_cmdReg : (popTop s).cmdReg = s.cmdReg := by
  unfold popTop; split <;> rfl
@[simp] theorem popTop_storeCount : (popTop s).storeCount = s.storeCount := by
  unfold popTop; split <;> rfl
@[simp] theorem popTop_armed : (popTop s).armed = s.armed := by
  unfold popTop; split <;> rfl
@[simp] theorem popTop_inFlight : (popTop s).inFlight = s.inFlight := by
  unfold popTop; split <;> rfl
@[simp] theorem popTop_lastNow : (popTop s).lastNow = s.lastNow := by
  unfold popTop; split <;> rfl
@[simp] theorem popTop_inputs : (popTop s).inputs = s.inputs := by
  unfold popTop; split <;> rfl
@[simp] theorem popTop_out : (popTop s).out = s.out := by
  unfold popTop; split <;> rfl
@[simp] theorem popTop_calls : (popTop s).calls = s.calls := by
  unfold popTop; split <;> rfl
@[simp] theorem popTop_freeIndex : (popTop s).freeIndex = s.freeIndex := by
  unfold popTop; split <;> rfl

end

section
variable (i : Nat) (s : State)

@[simp] theorem storeUpsert_cfg : (storeUpsert i s).cfg = s.cfg := by
  unfold storeUpsert; dsimp only; split; rfl; split <;> rfl
@[simp] theorem storeUpsert_ls : (storeUpsert i s).ls = s.ls := by
  unfold storeUpsert; dsimp only; split; rfl; split <;> rfl
@[simp] theorem storeUpsert_associated : (storeUpsert i s).associated = s.associated := by
  unfold storeUpsert; dsimp only; split; rfl; split <;> rfl
@[simp] theorem storeUpsert_deadline : (storeUpsert i s).deadline = s.deadline := by
  unfold storeUpsert; dsimp only; split; rfl; split <;> rfl
@[simp] theorem storeUpsert_txFlag : (storeUpsert i s).txFlag = s.txFlag := by
  unfold storeUpsert; dsimp only; split; rfl; split <;> rfl
@[simp] theorem storeUpsert_txRes : (storeUpsert i s).txRes = s.txRes := by
  unfold storeUpsert; dsimp only; split; rfl; split <;> rfl
@[simp] theorem storeUpsert_rxFlag : (storeUpsert i s).rxFlag = s.rxFlag := by
  unfold storeUpsert; dsimp only; split; rfl; split <;> rfl
@[simp] theorem storeUpsert_rxRes : (storeUpsert i s).rxRes = s.rxRes := by
  unfold storeUpsert; dsimp only; split; rfl; split <;> rfl
@[simp] theorem storeUpsert_hold : (storeUpsert i s).hold = s.hold := by
  unfold storeUpsert; dsimp only; split; rfl; split <;> rfl
@[simp] theorem storeUpsert_count : (storeUpsert i s).count = s.count := by
  unfold storeUpsert; dsimp only; split; rfl; split <;> rfl
@[simp] theorem storeUpsert_resp : (storeUpsert i s).resp = s.resp := by
  unfold storeUpsert; dsimp only; split; rfl; split <;> rfl
@[simp] theorem storeUpsert_txPending : (storeUpsert i s).txPending = s.txPending := by
  unfold storeUpsert; dsimp only; split; rfl; split <;> rfl
@[simp] theorem storeUpsert_settleAt : (storeUpsert i s).settleAt = s.settleAt := by
  unfold storeUpsert; dsimp only; split; rfl; split <;> rfl
@[simp] theorem storeUpsert_staging : (storeUpsert i s).staging = s.staging := by
  unfold storeUpsert; dsimp only; split; rfl; split <;> rfl
@[simp] theorem storeUpsert_pendingSyncError : (storeUpsert i s).pendingSyncError = s.pendingSyncError := by
  unfold storeUpsert; dsimp only; split; rfl; split <;> rfl
@[simp] theorem storeUpsert_rebootRequested : (storeUpsert i s).rebootRequested = s.rebootRequested := by
  unfold storeUpsert; dsimp only; split; rfl; split <;> rfl
@[simp] theorem storeUpsert_cmdReg : (storeUpsert i s).cmdReg = s.cmdReg := by
  unfold storeUpsert; dsimp only; split; rfl; split <;> rfl
@[simp] theorem storeUpsert_armed : (storeUpsert i s).armed = s.armed := by
  unfold storeUpsert; dsimp only; split; rfl; split <;> rfl
@[simp] theorem storeUpsert_inFlight : (storeUpsert i s).inFlight = s.inFlight := by
  unfold storeUpsert; dsimp only; split; rfl; split <;> rfl
@[simp] theorem storeUpsert_lastNow : (storeUpsert i s).lastNow = s.lastNow := by
  unfold storeUpsert; dsimp only; split; rfl; split <;> rfl
@[simp] theorem storeUpsert_inputs : (storeUpsert i s).inputs = s.inputs := by
  unfold storeUpsert; dsimp only; split; rfl; split <;> rfl
@[simp] theorem storeUpsert_out : (storeUpsert i s).out = s.out := by
  unfold storeUpsert; dsimp only; split; rfl; split <;> rfl

end

section
variable (r : TxResult) (s : State)

@[simp] theorem reportTx_cfg : (reportTx r s).cfg = s.cfg := by
  unfold reportTx; cases r <;> rfl
@[simp] theorem reportTx_ls : (reportTx r s).ls = s.ls := by
  unfold reportTx; cases r <;> rfl
@[simp] theorem reportTx_associated : (reportTx r s).associated = s.associated := by
  unfold reportTx; cases r <;> rfl
@[simp] theorem reportTx_deadline : (reportTx r s).deadline = s.deadline := by
  unfold reportTx; cases r <;> rfl
@[simp] theorem reportTx_txFlag : (reportTx r s).txFlag = s.txFlag := by
  unfold reportTx; cases r <;> rfl
@[simp] theorem reportTx_txRes : (reportTx r s).txRes = s.txRes := by
  unfold reportTx; cases r <;> rfl
@[simp] theorem reportTx_rxFlag : (reportTx r s).rxFlag = s.rxFlag := by
  unfold reportTx; cases r <;> rfl
@[simp] theorem reportTx_rxRes : (reportTx r s).rxRes = s.rxRes := by
  unfold reportTx; cases r <;> rfl
@[simp] theorem reportTx_hold : (reportTx r s).hold = s.hold := by
  unfold reportTx; cases r <;> rfl
@[simp] theorem reportTx_count : (reportTx r s).count = s.count := by
  unfold reportTx; cases r <;> rfl
@[simp] theorem reportTx_resp : (reportTx r s).resp = s.resp := by
  unfold reportTx; cases r <;> rfl
@[simp] theorem reportTx_txPending : (reportTx r s).txPending = s.txPending := by
  unfold reportTx; cases r <;> rfl
@[simp] theorem reportTx_settleAt : (reportTx r s).settleAt = s.settleAt := by
  unfold reportTx; cases r <;> rfl
@[simp] theorem reportTx_staging : (reportTx r s).staging = s.staging := by
  unfold reportTx; cases r <;> rfl
@[simp] theorem reportTx_pendingSyncError : (reportTx r s).pendingSyncError = s.pendingSyncError := by
  unfold reportTx; cases r <;> rfl
@[simp] theorem reportTx_rebootRequested : (reportTx r s).rebootRequested = s.rebootRequested := by
  unfold reportTx; cases r <;> rfl
@[simp] theorem reportTx_cmdReg : (reportTx r s).cmdReg = s.cmdReg := by
  unfold reportTx; cases r <;> rfl
@[simp] theorem reportTx_storeCount : (reportTx r s).storeCount = s.storeCount := by
  unfold reportTx; cases r <;> rfl
@[simp] theorem reportTx_armed : (reportTx r s).armed = s.armed := by
  unfold reportTx; cases r <;> rfl
@[simp] theorem reportTx_inFlight : (reportTx r s).inFlight = s.inFlight := by
  unfold reportTx; cases r <;> rfl
@[simp] theorem reportTx_lastNow : (reportTx r s).lastNow = s.lastNow := by
  unfold reportTx; cases r <;> rfl
@[simp] theorem reportTx_inputs : (reportTx r s).inputs = s.inputs := by
  unfold reportTx; cases r <;> rfl
@[simp] theorem reportTx_calls : (reportTx r s).calls = s.calls := by
  unfold reportTx; cases r <;> rfl
@[simp] theorem reportTx_freeIndex : (reportTx r s).freeIndex = s.freeIndex := by
  unfold reportTx; cases r <;> rfl

end

section
variable (c r : Word) (s : State)

@[simp] theorem reportMismatch_cfg : (reportMismatch c r s).cfg = s.cfg := by
  unfold reportMismatch; split <;> rfl
@[simp] theorem reportMismatch_ls : (reportMismatch c r s).ls = s.ls := by
  unfold reportMismatch; split <;> rfl
@[simp] theorem reportMismatch_associated : (reportMismatch c r s).associated = s.associated := by
  unfold reportMismatch; split <;> rfl
@[simp] theorem reportMismatch_deadline : (reportMismatch c r s).deadline = s.deadline := by
  unfold reportMismatch; split <;> rfl
@[simp] theorem reportMismatch_txFlag : (reportMismatch c r s).txFlag = s.txFlag := by
  unfold reportMismatch; split <;> rfl
@[simp] theorem reportMismatch_txRes : (reportMismatch c r s).txRes = s.txRes := by
  unfold reportMismatch; split <;> rfl
@[simp] theorem reportMismatch_rxFlag : (reportMismatch c r s).rxFlag = s.rxFlag := by
  unfold reportMismatch; split <;> rfl
@[simp] theorem reportMismatch_rxRes : (reportMismatch c r s).rxRes = s.rxRes := by
  unfold reportMismatch; split <;> rfl
@[simp] theorem reportMismatch_hold : (reportMismatch c r s).hold = s.hold := by
  unfold reportMismatch; split <;> rfl
@[simp] theorem reportMismatch_count : (reportMismatch c r s).count = s.count := by
  unfold reportMismatch; split <;> rfl
@[simp] theorem reportMismatch_resp : (reportMismatch c r s).resp = s.resp := by
  unfold reportMismatch; split <;> rfl
@[simp] theorem reportMismatch_txPending : (reportMismatch c r s).txPending = s.txPending := by
  unfold reportMismatch; split <;> rfl
@[simp] theorem reportMismatch_settleAt : (reportMismatch c r s).settleAt = s.settleAt := by
  unfold reportMismatch; split <;> rfl
@[simp] theorem reportMismatch_staging : (reportMismatch c r s).staging = s.staging := by
  unfold reportMismatch; split <;> rfl
@[simp] theorem reportMismatch_pendingSyncError : (reportMismatch c r s).pendingSyncError = s.pendingSyncError := by
  unfold reportMismatch; split <;> rfl
@[simp] theorem reportMismatch_rebootRequested : (reportMismatch c r s).rebootRequested = s.rebootRequested := by
  unfold reportMismatch; split <;> rfl
@[simp] theorem reportMismatch_cmdReg : (reportMismatch c r s).cmdReg = s.cmdReg := by
  unfold reportMismatch; split <;> rfl
@[simp] theorem reportMismatch_storeCount : (reportMismatch c r s).storeCount = s.storeCount := by
  unfold reportMismatch; split <;> rfl
@[simp] theorem reportMismatch_armed : (reportMismatch c r s).armed = s.armed := by
  unfold reportMismatch; split <;> rfl
@[simp] theorem reportMismatch_inFlight : (reportMismatch c r s).inFlight = s.inFlight := by
  unfold reportMismatch; split <;> rfl
@[simp] theorem reportMismatch_lastNow : (reportMismatch c r s).lastNow = s.lastNow := by
  unfold reportMismatch; split <;> rfl
@[simp] theorem reportMismatch_inputs : (reportMismatch c r s).inputs = s.inputs := by
  unfold reportMismatch; split <;> rfl
@[simp] theorem reportMismatch_calls : (reportMismatch c r s).calls = s.calls := by
  unfold reportMismatch; split <;> rfl
@[simp] theorem reportMismatch_freeIndex : (reportMismatch c r s).freeIndex = s.freeIndex := by
  unfold reportMismatch; split <;> rfl

end

section
variable (r : Word) (s : State)

@[simp] theorem purgeOnSyncError_cfg : (purgeOnSyncError r s).cfg = s.cfg := by
  unfold purgeOnSyncError; split <;> rfl
@[simp] theorem purgeOnSyncError_ls : (purgeOnSyncError r s).ls = s.ls := by
  unfold purgeOnSyncError; split <;> rfl
@[simp] theorem purgeOnSyncError_associated : (purgeOnSyncError r s).associated = s.associated := by
  unfold purgeOnSyncError; split <;> rfl
@[simp] theorem purgeOnSyncError_deadline : (purgeOnSyncError r s).deadline = s.deadline := by
  unfold purgeOnSyncError; split <;> rfl
@[simp] theorem purgeOnSyncError_txFlag : (purgeOnSyncError r s).txFlag = s.txFlag := by
  unfold purgeOnSyncError; split <;> rfl
@[simp] theorem purgeOnSyncError_txRes : (purgeOnSyncError r s).txRes = s.txRes := by
  unfold purgeOnSyncError; split <;> rfl
@[simp] theorem purgeOnSyncError_rxFlag : (purgeOnSyncError r s).rxFlag = s.rxFlag := by
  unfold purgeOnSyncError; split <;> rfl
@[simp] theorem purgeOnSyncError_rxRes : (purgeOnSyncError r s).rxRes = s.rxRes := by
  unfold purgeOnSyncError; split <;> rfl
@[simp] theorem purgeOnSyncError_hold : (purgeOnSyncError r s).hold = s.hold := by
  unfold purgeOnSyncError; split <;> rfl
@[simp] theorem purgeOnSyncError_count : (purgeOnSyncError r s).count = s.count := by
  unfold purgeOnSyncError; split <;> rfl
@[simp] theorem purgeOnSyncError_resp : (purgeOnSyncError r s).resp = s.resp := by
  unfold purgeOnSyncError; split <;> rfl
@[simp] theorem purgeOnSyncError_txPending : (purgeOnSyncError r s).txPending = s.txPending := by
  unfold purgeOnSyncError; split <;> rfl
@[simp] theorem purgeOnSyncError_settleAt : (purgeOnSyncError r s).settleAt = s.settleAt := by
  unfold purgeOnSyncError; split <;> rfl
@[simp] theorem purgeOnSyncError_staging : (purgeOnSyncError r s).staging = s.staging := by
  unfold purgeOnSyncError; split <;> rfl
@[simp] theorem purgeOnSyncError_pendingSyncError : (purgeOnSyncError r s).pendingSyncError = s.pendingSyncError := by
  unfold purgeOnSyncError; split <;> rfl
@[simp] theorem purgeOnSyncError_rebootRequested : (purgeOnSyncError r s).rebootRequested = s.rebootRequested := by
  unfold purgeOnSyncError; split <;> rfl
@[simp] theorem purgeOnSyncError_cmdReg : (purgeOnSyncError r s).cmdReg = s.cmdReg := by
  unfold purgeOnSyncError; split <;> rfl
@[simp] theorem purgeOnSyncError_armed : (purgeOnSyncError r s).armed = s.armed := by
  unfold purgeOnSyncError; split <;> rfl
@[simp] theorem purgeOnSyncError_inFlight : (purgeOnSyncError r s).inFlight = s.inFlight := by
  unfold purgeOnSyncError; split <;> rfl
@[simp] theorem purgeOnSyncError_lastNow : (purgeOnSyncError r s).lastNow = s.lastNow := by
  unfold purgeOnSyncError; split <;> rfl
@[simp] theorem purgeOnSyncError_inputs : (purgeOnSyncError r s).inputs = s.inputs := by
  unfold purgeOnSyncError; split <;> rfl
@[simp] theorem purgeOnSyncError_calls : (purgeOnSyncError r s).calls = s.calls := by
  unfold purgeOnSyncError; split <;> rfl
@[simp] theorem purgeOnSyncError_freeIndex : (purgeOnSyncError r s).freeIndex = s.freeIndex := by
  unfold purgeOnSyncError; split <;> rfl

end

section
variable (now : Nat) (s : State)

@[simp] theorem closeWindow_cfg : (closeWindow now s).cfg = s.cfg := by
  unfold closeWindow; unfold popTop; split <;> rfl
@[simp] theorem closeWindow_associated : (closeWindow now s).associated = s.associated := by
  unfold closeWindow; unfold popTop; split <;> rfl
@[simp] theorem closeWindow_txFlag : (closeWindow now s).txFlag = s.txFlag := by
  unfold closeWindow; unfold popTop; split <;> rfl
@[simp] theorem closeWindow_txRes : (closeWindow now s).txRes = s.txRes := by
  unfold closeWindow; unfold popTop; split <;> rfl
@[simp] theorem closeWindow_rxFlag : (closeWindow now s).rxFlag = s.rxFlag := by
  unfold closeWindow; unfold popTop; split <;> rfl
@[simp] theorem closeWindow_rxRes : (closeWindow now s).rxRes = s.rxRes := by
  unfold closeWindow; unfold popTop; split <;> rfl
@[simp] theorem closeWindow_hold : (closeWindow now s).hold = s.hold := by
  unfold closeWindow; unfold popTop; split <;> rfl
@[simp] theorem closeWindow_resp : (closeWindow now s).resp = s.resp := by
  unfold closeWindow; unfold popTop; split <;> rfl
@[simp] theorem closeWindow_txPending : (closeWindow now s).txPending = s.txPending := by
  unfold closeWindow; unfold popTop; split <;> rfl
@[simp] theorem closeWindow_settleAt : (closeWindow now s).settleAt = s.settleAt := by
  unfold closeWindow; unfold popTop; split <;> rfl
@[simp] theorem closeWindow_staging : (closeWindow now s).staging = s.staging := by
  unfold closeWindow; unfold popTop; split <;> rfl
@[simp] theorem closeWindow_pendingSyncError : (closeWindow now s).pendingSyncError = s.pendingSyncError := by
  unfold closeWindow; unfold popTop; split <;> rfl
@[simp] theorem closeWindow_rebootRequested : (closeWindow now s).rebootRequested = s.rebootRequested := by
  unfold closeWindow; unfold popTop; split <;> rfl
@[simp] theorem closeWindow_cmdReg : (closeWindow now s).cmdReg = s.cmdReg := by
  unfold closeWindow; unfold popTop; split <;> rfl
@[simp] theorem closeWindow_storeCount : (closeWindow now s).storeCount = s.storeCount := by
  unfold closeWindow; unfold popTop; split <;> rfl
@[simp] theorem closeWindow_armed : (closeWindow now s).armed = s.armed := by
  unfold closeWindow; unfold popTop; split <;> rfl
@[simp] theorem closeWindow_inFlight : (closeWindow now s).inFlight = s.inFlight := by
  unfold closeWindow; unfold popTop; split <;> rfl
@[simp] theorem closeWindow_lastNow : (closeWindow now s).lastNow = s.lastNow := by
  unfold closeWindow; unfold popTop; split <;> rfl
@[simp] theorem closeWindow_inputs : (closeWindow now s).inputs = s.inputs := by
  unfold closeWindow; unfold popTop; split <;> rfl
@[simp] theorem closeWindow_out : (closeWindow now s).out = s.out := by
  unfold closeWindow; unfold popTop; split <;> rfl
@[simp] theorem closeWindow_calls : (closeWindow now s).calls = s.calls := by
  unfold closeWindow; unfold popTop; split <;> rfl
@[simp] theorem closeWindow_freeIndex : (closeWindow now s).freeIndex = s.freeIndex := by
  unfold closeWindow; unfold popTop; split <;> rfl

end

section
variable (now : Nat) (s : State)

@[simp] theorem settleAction_cfg : (settleAction now s).cfg = s.cfg := by
  unfold settleAction; split <;> rfl
@[simp] theorem settleAction_ls : (settleAction now s).ls = s.ls := by
  unfold settleAction; split <;> rfl
@[simp] theorem settleAction_associated : (settleAction now s).associated = s.associated := by
  unfold settleAction; split <;> rfl
@[simp] theorem settleAction_deadline : (settleAction now s).deadline = s.deadline := by
  unfold settleAction; split <;> rfl
@[simp] theorem settleAction_txRes : (settleAction now s).txRes = s.txRes := by
  unfold settleAction; split <;> rfl
@[simp] theorem settleAction_rxFlag : (settleAction now s).rxFlag = s.rxFlag := by
  unfold settleAction; split <;> rfl
@[simp] theorem settleAction_rxRes : (settleAction now s).rxRes = s.rxRes := by
  unfold settleAction; split <;> rfl
@[simp] theorem settleAction_hold : (settleAction now s).hold = s.hold := by
  unfold settleAction; split <;> rfl
@[simp] theorem settleAction_count : (settleAction now s).count = s.count := by
  unfold settleAction; split <;> rfl
@[simp] theorem settleAction_resp : (settleAction now s).resp = s.resp := by
  unfold settleAction; split <;> rfl
@[simp] theorem settleAction_settleAt : (settleAction now s).settleAt = s.settleAt := by
  unfold settleAction; split <;> rfl
@[simp] theorem settleAction_staging : (settleAction now s).staging = s.staging := by
  unfold settleAction; split <;> rfl
@[simp] theorem settleAction_pendingSyncError : (settleAction now s).pendingSyncError = s.pendingSyncError := by
  unfold settleAction; split <;> rfl
@[simp] theorem settleAction_rebootRequested : (settleAction now s).rebootRequested = s.rebootRequested := by
  unfold settleAction; split <;> rfl
@[simp] theorem settleAction_cmdReg : (settleAction now s).cmdReg = s.cmdReg := by
  unfold settleAction; split <;> rfl
@[simp] theorem settleAction_storeCount : (settleAction now s).storeCount = s.storeCount := by
  unfold settleAction; split <;> rfl
@[simp] theorem settleAction_armed : (settleAction now s).armed = s.armed := by
  unfold settleAction; split <;> rfl
@[simp] theorem settleAction_lastNow : (settleAction now s).lastNow = s.lastNow := by
  unfold settleAction; split <;> rfl
@[simp] theorem settleAction_inputs : (settleAction now s).inputs = s.inputs := by
  unfold settleAction; split <;> rfl
@[simp] theorem settleAction_calls : (settleAction now s).calls = s.calls := by
  unfold settleAction; split <;> rfl
@[simp] theorem settleAction_freeIndex : (settleAction now s).freeIndex = s.freeIndex := by
  unfold settleAction; split <;> rfl

end

section
variable (s : State)

/-- The fields an entry action leaves. -/
theorem entryAction_frame : (entryAction s).cfg = s.cfg ∧ (entryAction s).ls = s.ls ∧
    (entryAction s).associated = s.associated ∧ (entryAction s).deadline = s.deadline ∧
    (entryAction s).txRes = s.txRes ∧ (entryAction s).rxRes = s.rxRes ∧
    (entryAction s).hold = s.hold ∧ (entryAction s).count = s.count ∧
    (entryAction s).resp = s.resp ∧ (entryAction s).txPending = s.txPending ∧
    (entryAction s).settleAt = s.settleAt ∧ (entryAction s).staging = s.staging ∧
    (entryAction s).pendingSyncError = s.pendingSyncError ∧
    (entryAction s).rebootRequested = s.rebootRequested ∧ (entryAction s).cmdReg = s.cmdReg ∧
    (entryAction s).storeCount = s.storeCount ∧ (entryAction s).lastNow = s.lastNow ∧
    (entryAction s).inputs = s.inputs ∧ (entryAction s).calls = s.calls ∧
    (entryAction s).freeIndex = s.freeIndex := by
  unfold entryAction
  split
  · split <;> simp
  · simp
  · simp

end

end Sys2Proof.Machine
end

