-- ==== Sys2Proof/Laws/Ops.lean ====
section
/-! SUPPORT. For each shared operation, one lemma that says what it does, which proofs cite instead of
unfolding it. -/

namespace Sys2Proof.Machine

/-! ### Outcomes -/

@[simp] theorem andThen_next {α β : Type} (a : α) (f : α → Host.Outcome β Fault Refusal) :
    andThen (.next a) f = f a := rfl

@[simp] theorem andThen_fault {α β : Type} (r : Fault) (f : α → Host.Outcome β Fault Refusal) :
    andThen (.fault r) f = .fault r := rfl

@[simp] theorem andThen_refused {α β : Type} (r : Refusal)
    (f : α → Host.Outcome β Fault Refusal) : andThen (.refused r) f = .refused r := rfl

theorem andThen_eq_next {α β : Type} {o : Host.Outcome α Fault Refusal}
    {f : α → Host.Outcome β Fault Refusal} {b : β} :
    andThen o f = .next b ↔ ∃ a, o = .next a ∧ f a = .next b := by
  cases o <;> simp

theorem andThen_eq_fault {α β : Type} {o : Host.Outcome α Fault Refusal}
    {f : α → Host.Outcome β Fault Refusal} {r : Fault} :
    andThen o f = .fault r ↔ o = .fault r ∨ ∃ a, o = .next a ∧ f a = .fault r := by
  cases o <;> simp

theorem andThen_eq_refused {α β : Type} {o : Host.Outcome α Fault Refusal}
    {f : α → Host.Outcome β Fault Refusal} {r : Refusal} :
    andThen o f = .refused r ↔ o = .refused r ∨ ∃ a, o = .next a ∧ f a = .refused r := by
  cases o <;> simp

theorem noFault_iff {α : Type} {o : Host.Outcome α Fault Refusal} :
    NoFault o ↔ ∀ r, o ≠ .fault r := by
  cases o <;> simp [NoFault]

/-! ### Event cells -/

theorem pendingTx_eq_some {s : State} {r : TxResult} :
    pendingTx s = some r ↔ s.txFlag = true ∧ s.txRes = r := by
  unfold pendingTx; split <;> simp_all

theorem pendingTx_eq_none {s : State} : pendingTx s = none ↔ s.txFlag = false := by
  unfold pendingTx; split <;> simp_all

theorem pendingRx_eq_some {s : State} {q : RxResult} :
    pendingRx s = some q ↔ s.rxFlag = true ∧ s.rxRes = q := by
  unfold pendingRx; split <;> simp_all

theorem pendingRx_eq_none {s : State} : pendingRx s = none ↔ s.rxFlag = false := by
  unfold pendingRx; split <;> simp_all

/-! ### The hold -/

theorem pushHold_of_room {w : Word} {s : State} (h : s.count < s.cfg.k) :
    pushHold w s = { s with hold := s.hold.set s.count w, count := s.count + 1 } := by
  simp [pushHold, h, holdWrite]

theorem pushHold_of_full {w : Word} {s : State} (h : s.cfg.k ≤ s.count) : pushHold w s = s := by
  simp [pushHold, Nat.not_lt.mpr h]

theorem popTop_eq (s : State) : popTop s = { s with count := s.count - 1 } := by
  unfold popTop
  split
  · rfl
  · rename_i h
    have h0 : s.count = 0 := by omega
    cases s; simp_all

@[simp] theorem popTop_count (s : State) : (popTop s).count = s.count - 1 := by rw [popTop_eq]

theorem peekTop_eq_none {s : State} : peekTop s = none ↔ s.count = 0 := by
  simp [peekTop]

theorem peekTop_eq_some {s : State} {w : Word} :
    peekTop s = some w ↔ 0 < s.count ∧ s.hold.getD (s.count - 1) 0 = w := by
  simp [peekTop, holdRead, Nat.pos_iff_ne_zero]

theorem peekTop_isSome {s : State} (h : 0 < s.count) : ∃ w, peekTop s = some w :=
  ⟨_, peekTop_eq_some.mpr ⟨h, rfl⟩⟩

/-- `peek_top` reads the hold and its occupancy alone. -/
theorem peekTop_congr {s t : State} (hc : s.count = t.count) (hh : s.hold = t.hold) :
    peekTop s = peekTop t := by
  simp [peekTop, holdRead, hc, hh]

theorem heldWords_congr {s t : State} (hc : s.count = t.count) (hh : s.hold = t.hold) :
    heldWords s = heldWords t := by
  simp [heldWords, hc, hh]

@[simp] theorem closeWindow_count (now : Nat) (s : State) :
    (closeWindow now s).count = s.count - 1 := by simp [closeWindow]

@[simp] theorem closeWindow_deadline (now : Nat) (s : State) :
    (closeWindow now s).deadline = now + s.cfg.w := rfl

@[simp] theorem closeWindow_ls (now : Nat) (s : State) :
    (closeWindow now s).ls = .buffering := rfl

/-- The end of a receive window pops the newest word and leaves the others. -/
theorem heldWords_pop {s : State} (h : s.count ≤ s.hold.length) :
    s.hold.take (s.count - 1) = (heldWords s).dropLast := by
  simp [heldWords, List.dropLast_eq_take, List.take_take, Nat.min_eq_left h]

/-! ### Operands -/

theorem durationSlot_eq_some {c : Config} {sid j : Nat} :
    durationSlot c sid = some j ↔ sid < c.nStations ∧ sid = j := by
  simp [durationSlot]

theorem durationSlot_eq_none {c : Config} {sid : Nat} :
    durationSlot c sid = none ↔ c.nStations ≤ sid := by
  simp [durationSlot]

/-! ### Reports and collaborators -/

@[simp] theorem reportTx_out (r : TxResult) (s : State) : (reportTx r s).out =
    s.out ++ if r = .error then [.transportError .txFail] else [] := by
  cases r <;> simp [reportTx]

@[simp] theorem reportMismatch_out (c r : Word) (s : State) : (reportMismatch c r s).out =
    s.out ++ if r = c then [] else [.protocolMismatch c r] := by
  unfold reportMismatch; split <;> simp

@[simp] theorem purgeOnSyncError_out (r : Word) (s : State) : (purgeOnSyncError r s).out =
    s.out ++ if opcodeOf r = s.cfg.opc.syncError then [.storeDeleteAll] else [] := by
  unfold purgeOnSyncError; split <;> simp

@[simp] theorem purgeOnSyncError_storeCount (r : Word) (s : State) :
    (purgeOnSyncError r s).storeCount =
      if opcodeOf r = s.cfg.opc.syncError then 0 else s.storeCount := by
  unfold purgeOnSyncError; split <;> simp

theorem reportTx_eq (r : TxResult) (s : State) : reportTx r s =
    { s with out := s.out ++ if r = .error then [.transportError .txFail] else [] } := by
  cases r <;> simp [reportTx, emit]

theorem reportMismatch_eq (c r : Word) (s : State) : reportMismatch c r s =
    { s with out := s.out ++ if r = c then [] else [.protocolMismatch c r] } := by
  unfold reportMismatch; split <;> simp [emit]

theorem purgeOnSyncError_eq (r : Word) (s : State) : purgeOnSyncError r s =
    { s with
      storeCount := if opcodeOf r = s.cfg.opc.syncError then 0 else s.storeCount
      out := s.out ++ if opcodeOf r = s.cfg.opc.syncError then [.storeDeleteAll] else [] } := by
  unfold purgeOnSyncError; split <;> simp [emit]

/-- An upsert is one call, at any slot. -/
@[simp] theorem storeUpsert_calls (i : Nat) (s : State) :
    (storeUpsert i s).calls = s.calls ++ [.upsert i s.staging] := by
  unfold storeUpsert; dsimp only; split
  · rfl
  · split <;> rfl

theorem storeUpsert_storeCount (i : Nat) (s : State) : (storeUpsert i s).storeCount =
    if i < s.storeCount then s.storeCount
    else if i = s.storeCount then s.storeCount + 1
    else Config.upsertBeyondCount s.freeIndex s.storeCount i := by
  unfold storeUpsert; dsimp only; split
  · rfl
  · split <;> rfl

/-- What one dispatch does around a branch that goes on. -/
theorem dispatchWith_eq_next {branch : State → Host.Outcome State Fault Refusal} {s t : State} :
    dispatchWith branch s = .next t ↔
      ∃ a, branch (clearPending s) = .next a ∧ respond a = t := by
  simp [dispatchWith, andThen_eq_next]

theorem dispatchWith_eq_fault {branch : State → Host.Outcome State Fault Refusal} {s : State}
    {r : Fault} : dispatchWith branch s = .fault r ↔
      branch (clearPending s) = .fault r := by
  simp [dispatchWith, andThen_eq_fault]

theorem dispatchWith_eq_refused {branch : State → Host.Outcome State Fault Refusal} {s : State}
    {r : Refusal} : dispatchWith branch s = .refused r ↔
      branch (clearPending s) = .refused r := by
  simp [dispatchWith, andThen_eq_refused]

/-! ### The entry actions and the settle action -/

/-- Everything an entry action can do (42_link_tick.md R174). -/
theorem entryAction_cases (s : State) :
    (s.cfg.role = .remote ∧ s.ls = .send ∧ ∃ w, peekTop s = some w ∧ entryAction s = submit w s) ∨
    (s.ls = .receive ∧ entryAction s = armReceiver s) ∨
    ((s.ls = .send → s.cfg.role = .remote → peekTop s = none) ∧ s.ls ≠ .receive ∧
      entryAction s = s) := by
  unfold entryAction
  split
  · rename_i hr hl
    split
    · rename_i w hw; exact .inl ⟨hr, hl, w, hw, rfl⟩
    · rename_i hw; exact .inr (.inr ⟨fun _ _ => hw, by simp [hl], rfl⟩)
  · rename_i hl; exact .inr (.inl ⟨hl, rfl⟩)
  · rename_i h1 h2
    exact .inr (.inr ⟨fun a b => absurd a (h2 b), h1, rfl⟩)

/-- Everything the settle action can do (44_link_station.md R236). -/
theorem settleAction_cases (now : Nat) (s : State) :
    (s.txPending = true ∧ s.settleAt ≤ now ∧
      settleAction now s = dropResponse (submit s.resp s)) ∨
    (¬ (s.txPending = true ∧ s.settleAt ≤ now) ∧ settleAction now s = s) := by
  unfold settleAction
  split
  · rename_i h; exact .inl ⟨h.1, h.2, rfl⟩
  · rename_i h; exact .inr ⟨h, rfl⟩

/-! ### The step -/

/-- Everything a step can do: nothing, or the head input's own step. -/
theorem step_eq_next {s t : State} : step s = .next t ↔
    (s.inputs = [] ∧ t = clearTrace s) ∨
    ∃ i rest, s.inputs = i :: rest ∧
      applyInput i (clearTrace (setInputs rest s)) = .next t := by
  unfold step
  split
  · rename_i h; simp [h, eq_comm]
  · rename_i i rest h; simp [h]

theorem run_zero (s : State) : Sys2Proof.core.run 0 s = .next s := rfl

/-- A run of any machine is its first step and the run from there. -/
theorem run_unfold (M : Host.Core) (n : Nat) (s : M.State)
    (f : Host.Outcome M.State M.Fault M.Refusal → Host.Outcome M.State M.Fault M.Refusal)
    (hn : ∀ t, f (.next t) = M.run n t) (hf : ∀ r, f (.fault r) = .fault r)
    (hr : ∀ r, f (.refused r) = .refused r) : M.run (n + 1) s = f (M.step s) := by
  rw [Host.Core.run]
  cases M.step s <;> simp_all

/-- A run of this machine is its first step and the run from there. -/
theorem run_succ (n : Nat) (s : State) :
    Sys2Proof.core.run (n + 1) s = andThen (step s) fun t => Sys2Proof.core.run n t :=
  run_unfold Sys2Proof.core n s (fun o => andThen o fun t => Sys2Proof.core.run n t)
    (fun _ => rfl) (fun _ => rfl) (fun _ => rfl)

/-- Everything a tick that goes on can do: its transition, its action phase, its bookkeeping. -/
theorem tick_eq_next {now : Nat} {s t : State} : tick now s = .next t ↔
    s.lastNow ≤ now ∧ ∃ p : State × Bool, transition now s = .next p ∧
      stamp now (actionPhase now s.ls p.2 p.1) = t := by
  unfold tick
  split
  · rename_i h; simp [Nat.not_le.mpr h]
  · rename_i h; simp [andThen_eq_next, Nat.not_lt.mp h]

end Sys2Proof.Machine
end

