-- ==== Sys2Proof/Laws/PerInstr.lean ====
section
/-! SUPPORT. The laws stated for every command word, one lemma per constructor of `Instr`. -/

namespace Sys2Proof.Laws

/-! ### The opcode field of an encoded command -/

/-- Whatever the fields, the opcode field of an encoded command is the value of its name
(30_encoding.md R70, R89). -/
def OpcodeField.Statement (i : Instr) : Prop := ∀ m, opcodeOf (encode m i) = m.get i.opName

theorem OpcodeField.testStation (on sid dur : Nat) :
    OpcodeField.Statement (.testStation on sid dur) := by
  intro m; simp [encode, Instr.opName, opcodeOf_place]

theorem OpcodeField.programAddDel (slot add : Nat) :
    OpcodeField.Statement (.programAddDel slot add) := by
  intro m; simp [encode, Instr.opName, opcodeOf_place]

theorem OpcodeField.programMainSetup (slot en uw oe st pc : Nat) :
    OpcodeField.Statement (.programMainSetup slot en uw oe st pc) := by
  intro m; simp [encode, Instr.opName, opcodeOf_place]

theorem OpcodeField.programDays (slot days : Nat) :
    OpcodeField.Statement (.programDays slot days) := by
  intro m; simp [encode, Instr.opName, opcodeOf_place]

theorem OpcodeField.programStartTime (slot ix t ty : Nat) :
    OpcodeField.Statement (.programStartTime slot ix t ty) := by
  intro m; simp [encode, Instr.opName, opcodeOf_place]

theorem OpcodeField.programDuration (slot sid dur : Nat) :
    OpcodeField.Statement (.programDuration slot sid dur) := by
  intro m; simp [encode, Instr.opName, opcodeOf_place]

theorem OpcodeField.timeSync (minutes : Nat) :
    OpcodeField.Statement (.timeSync minutes) := by
  intro m; simp [encode, Instr.opName, opcodeOf_place]

theorem OpcodeField.timeZoneSync (tz : Nat) :
    OpcodeField.Statement (.timeZoneSync tz) := by
  intro m; simp [encode, Instr.opName, opcodeOf_place]

theorem OpcodeField.currentRequest :
    OpcodeField.Statement .currentRequest := by
  intro m; simp [encode, Instr.opName]

theorem OpcodeField.emergencyShutdown :
    OpcodeField.Statement .emergencyShutdown := by
  intro m; simp [encode, Instr.opName]

theorem OpcodeField.stationReboot :
    OpcodeField.Statement .stationReboot := by
  intro m; simp [encode, Instr.opName]

theorem OpcodeField.syncError :
    OpcodeField.Statement .syncError := by
  intro m; simp [encode, Instr.opName]

/-! ### Masking -/

/-- A command with its fields masked is well formed (40_codec.md R112). -/
def MaskedWellFormed.Statement (i : Instr) : Prop := i.masked.wf = true

theorem MaskedWellFormed.testStation (on sid dur : Nat) :
    MaskedWellFormed.Statement (.testStation on sid dur) := by
  simp [MaskedWellFormed.Statement, Instr.masked, Instr.wf]; omega

theorem MaskedWellFormed.programAddDel (slot add : Nat) :
    MaskedWellFormed.Statement (.programAddDel slot add) := by
  simp [MaskedWellFormed.Statement, Instr.masked, Instr.wf]; omega

theorem MaskedWellFormed.programMainSetup (slot en uw oe st pc : Nat) :
    MaskedWellFormed.Statement (.programMainSetup slot en uw oe st pc) := by
  simp [MaskedWellFormed.Statement, Instr.masked, Instr.wf]; omega

theorem MaskedWellFormed.programDays (slot days : Nat) :
    MaskedWellFormed.Statement (.programDays slot days) := by
  simp [MaskedWellFormed.Statement, Instr.masked, Instr.wf]; omega

theorem MaskedWellFormed.programStartTime (slot ix t ty : Nat) :
    MaskedWellFormed.Statement (.programStartTime slot ix t ty) := by
  simp [MaskedWellFormed.Statement, Instr.masked, Instr.wf]; omega

theorem MaskedWellFormed.programDuration (slot sid dur : Nat) :
    MaskedWellFormed.Statement (.programDuration slot sid dur) := by
  simp [MaskedWellFormed.Statement, Instr.masked, Instr.wf]; omega

theorem MaskedWellFormed.timeSync (minutes : Nat) :
    MaskedWellFormed.Statement (.timeSync minutes) := by
  simp [MaskedWellFormed.Statement, Instr.masked, Instr.wf]; omega

theorem MaskedWellFormed.timeZoneSync (tz : Nat) :
    MaskedWellFormed.Statement (.timeZoneSync tz) := by
  simp [MaskedWellFormed.Statement, Instr.masked, Instr.wf]; omega

theorem MaskedWellFormed.currentRequest :
    MaskedWellFormed.Statement .currentRequest := rfl

theorem MaskedWellFormed.emergencyShutdown :
    MaskedWellFormed.Statement .emergencyShutdown := rfl

theorem MaskedWellFormed.stationReboot :
    MaskedWellFormed.Statement .stationReboot := rfl

theorem MaskedWellFormed.syncError :
    MaskedWellFormed.Statement .syncError := rfl

/-! ### Encoding after masking -/

/-- The encoder masks each field itself (40_codec.md R110). -/
def EncodeMasks.Statement (i : Instr) : Prop := ∀ m, encode m i.masked = encode m i

theorem EncodeMasks.testStation (on sid dur : Nat) :
    EncodeMasks.Statement (.testStation on sid dur) := by
  intro m; simp [Instr.masked, encode, place]

theorem EncodeMasks.programAddDel (slot add : Nat) :
    EncodeMasks.Statement (.programAddDel slot add) := by
  intro m; simp [Instr.masked, encode, place]

theorem EncodeMasks.programMainSetup (slot en uw oe st pc : Nat) :
    EncodeMasks.Statement (.programMainSetup slot en uw oe st pc) := by
  intro m; simp [Instr.masked, encode, place]

theorem EncodeMasks.programDays (slot days : Nat) :
    EncodeMasks.Statement (.programDays slot days) := by
  intro m; simp [Instr.masked, encode, place]

theorem EncodeMasks.programStartTime (slot ix t ty : Nat) :
    EncodeMasks.Statement (.programStartTime slot ix t ty) := by
  intro m; simp [Instr.masked, encode, place]

theorem EncodeMasks.programDuration (slot sid dur : Nat) :
    EncodeMasks.Statement (.programDuration slot sid dur) := by
  intro m; simp [Instr.masked, encode, place]

theorem EncodeMasks.timeSync (minutes : Nat) :
    EncodeMasks.Statement (.timeSync minutes) := by
  intro m; simp [Instr.masked, encode, place]

theorem EncodeMasks.timeZoneSync (tz : Nat) :
    EncodeMasks.Statement (.timeZoneSync tz) := by
  intro m; simp [Instr.masked, encode, place]

theorem EncodeMasks.currentRequest :
    EncodeMasks.Statement .currentRequest := fun _ => rfl

theorem EncodeMasks.emergencyShutdown :
    EncodeMasks.Statement .emergencyShutdown := fun _ => rfl

theorem EncodeMasks.stationReboot :
    EncodeMasks.Statement .stationReboot := fun _ => rfl

theorem EncodeMasks.syncError :
    EncodeMasks.Statement .syncError := fun _ => rfl

end Sys2Proof.Laws
end

