-- ==== Sys2Proof/Laws/Tick.lean ====
section
/-! SUPPORT. What a tick can do, said once: the cases of the transition phase and of the action phase.
Invariants and frames are proved case by case from these. -/

namespace Sys2Proof.Machine

/-- Everything the action phase can do: a Remote's submit, an arm, a Station's settle action, or nothing
(42_link_tick.md R173, R174). -/
theorem actionPhase_cases (now : Nat) (old : LinkState) (rearm : Bool) (s : State) :
    (s.cfg.role = .remote ∧ s.ls = .send ∧ (s.ls ≠ old ∨ rearm = true) ∧
      ∃ w, peekTop s = some w ∧ actionPhase now old rearm s = submit w s) ∨
    (s.ls = .receive ∧ (s.ls ≠ old ∨ rearm = true) ∧
      actionPhase now old rearm s = armReceiver s) ∨
    (s.cfg.role = .station ∧ s.ls = .send ∧ s.txPending = true ∧ s.settleAt ≤ now ∧
      actionPhase now old rearm s = dropResponse (submit s.resp s)) ∨
    ((s.ls = .receive → s.ls = old ∧ rearm = false) ∧
      (s.ls = .send → s.cfg.role = .remote → (s.ls ≠ old ∨ rearm = true) →
        peekTop s = none) ∧
      (s.cfg.role = .station → s.ls = .send → ¬ (s.txPending = true ∧ s.settleAt ≤ now)) ∧
      actionPhase now old rearm s = s) := by
  unfold actionPhase
  by_cases hc : s.ls ≠ old ∨ rearm = true
  · simp only [hc, if_true]
    rcases entryAction_cases s with ⟨hr, hl, w, hw, he⟩ | ⟨hl, he⟩ | ⟨h1, h2, he⟩
    · left; refine ⟨hr, hl, trivial, w, hw, ?_⟩; simp [he, hr]
    · right; left; refine ⟨hl, trivial, ?_⟩; simp [he, hl]
    · simp only [he]
      by_cases hs : s.cfg.role = .station ∧ s.ls = .send
      · simp only [hs, and_self, if_true]
        rcases settleAction_cases now s with ⟨a, b, c⟩ | ⟨a, c⟩
        · right; right; left; exact ⟨trivial, trivial, a, b, c⟩
        · right; right; right; simp_all
      · simp only [hs, if_false]
        right; right; right; refine ⟨by simp_all, fun a b _ => h1 a b, by tauto, trivial⟩
  · simp only [hc, if_false]
    have hc' : s.ls = old ∧ rearm = false := by simpa using hc
    by_cases hs : s.cfg.role = .station ∧ s.ls = .send
    · simp only [hs, and_self, if_true]
      rcases settleAction_cases now s with ⟨a, b, c⟩ | ⟨a, c⟩
      · right; right; left; exact ⟨trivial, trivial, a, b, c⟩
      · right; right; right; simp_all
    · simp only [hs, if_false]
      right; right; right; refine ⟨fun _ => hc', by tauto, by tauto, trivial⟩

/-- Everything a transition that goes on can do: the rules of 43_link_remote.md and 44_link_station.md,
one case each, with their guards. -/
inductive TransitionCase (now : Nat) (s : State) : State × Bool → Prop where
  /-- R200, R201. -/
  | remoteAssociated : s.cfg.role = .remote → s.ls = .init ∨ s.ls = .associate →
      s.associated = true →
      TransitionCase now s (goTo .buffering s, false)
  /-- R200. -/
  | remoteInitWaits : s.cfg.role = .remote → s.ls = .init → s.associated = false →
      TransitionCase now s (goTo .associate s, false)
  /-- R201. -/
  | remoteAssociateWaits : s.cfg.role = .remote → s.ls = .associate → s.associated = false →
      TransitionCase now s (s, false)
  /-- R202. -/
  | remoteSends : s.cfg.role = .remote → s.ls = .buffering → 0 < s.count →
      TransitionCase now s (goTo .send (setTimer (now + s.cfg.w) (setTimer now s)), false)
  /-- R203. -/
  | remoteHoldEmpty : s.cfg.role = .remote → s.ls = .buffering → s.count = 0 →
      TransitionCase now s (setTimer now s, false)
  /-- R204. -/
  | remoteSent (r : TxResult) : s.cfg.role = .remote → s.ls = .send → s.txFlag = true →
      s.txRes = r →
      TransitionCase now s (goTo .receive
        (setTimer (now + s.cfg.w) (reportTx r (drainTx s))), false)
  /-- R205. -/
  | remoteSendExpires : s.cfg.role = .remote → s.ls = .send → s.txFlag = false →
      s.deadline ≤ now →
      TransitionCase now s (goTo .receive s, false)
  /-- R206. -/
  | remoteSendWaits : s.cfg.role = .remote → s.ls = .send → s.txFlag = false → now < s.deadline →
      TransitionCase now s (s, false)
  /-- R207. -/
  | remoteResponds (r c : Word) : s.cfg.role = .remote → s.ls = .receive → s.rxFlag = true →
      s.rxRes = .frame r → peekTop s = some c →
      TransitionCase now s (closeWindow now
        (reportMismatch c r (purgeOnSyncError r (drainRx s))), false)
  /-- R208. -/
  | remoteRearms (q : RxResult) : s.cfg.role = .remote → s.ls = .receive → s.rxFlag = true →
      s.rxRes = q → (∀ w, q ≠ .frame w) → s.cfg.rxErrorPolicy = .rearm →
      TransitionCase now s (emit (.transportError (rxErrorKind q)) (drainRx s), true)
  /-- R208. -/
  | remoteErrorExpires (q : RxResult) (c : Word) : s.cfg.role = .remote → s.ls = .receive →
      s.rxFlag = true → s.rxRes = q → (∀ w, q ≠ .frame w) → s.cfg.rxErrorPolicy = .expire →
      peekTop s = some c →
      TransitionCase now s (closeWindow now
        (emit (.commandLost c) (emit (.transportError (rxErrorKind q)) (drainRx s))), false)
  /-- R209. -/
  | remoteReceiveExpires (c : Word) : s.cfg.role = .remote → s.ls = .receive → s.rxFlag = false →
      s.deadline ≤ now → peekTop s = some c →
      TransitionCase now s (closeWindow now (emit (.commandLost c) s), false)
  /-- R210. -/
  | remoteReceiveWaits : s.cfg.role = .remote → s.ls = .receive → s.rxFlag = false →
      now < s.deadline →
      TransitionCase now s (s, false)
  /-- R230, R231. -/
  | stationAssociated : s.cfg.role = .station → s.ls = .init ∨ s.ls = .associate →
      s.associated = true →
      TransitionCase now s (goTo .receive s, false)
  /-- R230. -/
  | stationInitWaits : s.cfg.role = .station → s.ls = .init → s.associated = false →
      TransitionCase now s (goTo .associate s, false)
  /-- R231. -/
  | stationAssociateWaits : s.cfg.role = .station → s.ls = .associate → s.associated = false →
      TransitionCase now s (s, false)
  /-- R233. -/
  | stationDispatches (w : Word) (t : State) : s.cfg.role = .station → s.ls = .receive →
      s.rxFlag = true → s.rxRes = .frame w → runDispatch w (drainRx s) = .next t →
      TransitionCase now s (beginResponse now t, false)
  /-- R234. -/
  | stationRearms (q : RxResult) : s.cfg.role = .station → s.ls = .receive → s.rxFlag = true →
      s.rxRes = q → (∀ w, q ≠ .frame w) →
      TransitionCase now s (emit (.transportError (rxErrorKind q)) (drainRx s), true)
  /-- R232. -/
  | stationListens : s.cfg.role = .station → s.ls = .receive → s.rxFlag = false →
      TransitionCase now s (s, false)
  /-- R235. -/
  | stationSent (r : TxResult) : s.cfg.role = .station → s.ls = .send → s.txPending = false →
      s.txFlag = true → s.txRes = r →
      TransitionCase now s (goTo .receive (reportTx r (drainTx s)), false)
  /-- R235. -/
  | stationSendExpires : s.cfg.role = .station → s.ls = .send →
      (s.txPending = true ∨ s.txFlag = false) → s.deadline ≤ now →
      TransitionCase now s (goTo .receive (dropResponse s), false)
  /-- R237. -/
  | stationSendWaits : s.cfg.role = .station → s.ls = .send →
      (s.txPending = true ∨ s.txFlag = false) → now < s.deadline →
      TransitionCase now s (s, false)

/-- A transition that goes on is one of the cases. -/
theorem transition_cases {now : Nat} {s : State} {p : State × Bool}
    (h : transition now s = .next p) : TransitionCase now s p := by
  unfold transition at h
  cases hr : s.cfg.role <;> simp only [hr] at h
  · unfold remoteTransition at h
    cases hl : s.ls <;> simp only [hl] at h
    · cases ha : s.associated <;> simp [remoteInit, ha] at h <;> subst h
      · exact .remoteInitWaits hr hl ha
      · exact .remoteAssociated hr (.inl hl) ha
    · cases ha : s.associated <;> simp [remoteAssociate, ha] at h <;> subst h
      · exact .remoteAssociateWaits hr hl ha
      · exact .remoteAssociated hr (.inr hl) ha
    · by_cases hc : 0 < s.count
      · simp [remoteBuffering, expired, size, hc] at h; subst h; exact .remoteSends hr hl hc
      · simp [remoteBuffering, expired, size, hc] at h; subst h; exact .remoteHoldEmpty hr hl (by omega)
    · unfold remoteSend at h
      split at h
      · rename_i r hp; have hp := pendingTx_eq_some.mp hp; simp at h; subst h; exact .remoteSent r hr hl hp.1 hp.2
      · rename_i hp; have hp := pendingTx_eq_none.mp hp
        by_cases hd : s.deadline ≤ now
        · simp [expired, hd] at h; subst h; exact .remoteSendExpires hr hl hp hd
        · simp [expired, hd] at h; subst h; exact .remoteSendWaits hr hl hp (by omega)
    · unfold remoteReceive at h
      split at h
      · rename_i r hp; have hp := pendingRx_eq_some.mp hp
        unfold remoteResponse at h
        split at h
        · rename_i c hc; simp at h; subst h; exact .remoteResponds r c hr hl hp.1 hp.2 hc
        · simp at h
      · rename_i q hq hp; have hp := pendingRx_eq_some.mp hp
        dsimp only at h
        split at h
        · rename_i hpol; simp at h; subst h; exact .remoteRearms q hr hl hp.1 hp.2 (fun w e => hq w e) hpol
        · rename_i hpol; unfold remoteExpire at h
          split at h
          · rename_i c hc; simp at h; subst h; exact .remoteErrorExpires q c hr hl hp.1 hp.2 (fun w e => hq w e) hpol hc
          · simp at h
      · rename_i hp; have hp := pendingRx_eq_none.mp hp
        by_cases hd : s.deadline ≤ now
        · simp only [expired, hd, if_true] at h; unfold remoteExpire at h
          split at h
          · rename_i c hc; simp at h; subst h; exact .remoteReceiveExpires c hr hl hp hd hc
          · simp at h
        · simp [expired, hd] at h; subst h; exact .remoteReceiveWaits hr hl hp (by omega)
  · unfold stationTransition at h
    cases hl : s.ls <;> simp only [hl] at h
    · cases ha : s.associated <;> simp [stationInit, ha] at h <;> subst h
      · exact .stationInitWaits hr hl ha
      · exact .stationAssociated hr (.inl hl) ha
    · cases ha : s.associated <;> simp [stationAssociate, ha] at h <;> subst h
      · exact .stationAssociateWaits hr hl ha
      · exact .stationAssociated hr (.inr hl) ha
    · simp at h
    · unfold stationSend at h
      split at h
      · rename_i r hp
        have : s.txPending = false := by cases hh : s.txPending <;> simp_all
        simp [this] at hp
        have hp := pendingTx_eq_some.mp hp; simp at h; subst h; exact .stationSent r hr hl this hp.1 hp.2
      · rename_i hp
        have hp : s.txPending = true ∨ s.txFlag = false := by
          cases hh : s.txPending <;> simp_all [pendingTx_eq_none]
        by_cases hd : s.deadline ≤ now
        · simp [expired, hd] at h; subst h; exact .stationSendExpires hr hl hp hd
        · simp [expired, hd] at h; subst h; exact .stationSendWaits hr hl hp (by omega)
    · unfold stationReceive at h
      split at h
      · rename_i w hp; have hp := pendingRx_eq_some.mp hp
        obtain ⟨t, ht, h⟩ := andThen_eq_next.mp h
        simp at h; subst h; exact .stationDispatches w t hr hl hp.1 hp.2 ht
      · rename_i q hq hp; have hp := pendingRx_eq_some.mp hp
        simp at h; subst h; exact .stationRearms q hr hl hp.1 hp.2 (fun w e => hq w e)
      · rename_i hp; have hp := pendingRx_eq_none.mp hp
        simp at h; subst h; exact .stationListens hr hl hp


/-- Everything a step that goes on can do: an idle step, a tick by its transition and its action phase, a
host push, or a delivery (00_scope.md R7). -/
inductive StepCase (s : State) : State → Prop where
  | idle : s.inputs = [] → StepCase s (clearTrace s)
  | tick (now : Nat) (rest : List Input) (p : State × Bool) : s.inputs = .tick now :: rest →
      s.lastNow ≤ now → TransitionCase now (clearTrace (setInputs rest s)) p →
      StepCase s (stamp now (actionPhase now s.ls p.2 p.1))
  | push (w : Word) (rest : List Input) : s.inputs = .push w :: rest → s.cfg.role = .remote →
      StepCase s (pushHold w (clearTrace (setInputs rest s)))
  | txDone (r : TxResult) (rest : List Input) : s.inputs = .txDone r :: rest →
      StepCase s (deliverTx r (clearTrace (setInputs rest s)))
  | rxDone (q : RxResult) (rest : List Input) : s.inputs = .rxDone q :: rest →
      StepCase s (deliverRx q (clearTrace (setInputs rest s)))

theorem step_cases {s t : State} (h : step s = .next t) : StepCase s t := by
  rcases step_eq_next.mp h with ⟨hi, rfl⟩ | ⟨i, rest, hi, h⟩
  · exact .idle hi
  · cases i with
    | tick now =>
      obtain ⟨hn, p, hp, rfl⟩ := tick_eq_next.mp h
      exact .tick now rest p hi hn (transition_cases hp)
    | push w =>
      simp only [applyInput, hostPush] at h
      split at h
      · rename_i hr; simp at h; subst h; exact .push w rest hi hr
      · simp at h
    | txDone r => simp [applyInput] at h; subst h; exact .txDone r rest hi
    | rxDone q => simp [applyInput] at h; subst h; exact .rxDone q rest hi

end Sys2Proof.Machine
end

