-- ==== Sys2Proof/Machine/Text.lean ====
section
/-! DEFINITION. The notation of words and of test programs (30_encoding.md R90, R91) as terms: what each
written word and each line of a script stands for. -/

namespace Sys2Proof

/-- The `<Name>` of an opcode (30_encoding.md R72, R90). -/
def OpName.text : OpName → String
  | .testStation       => "TestStation"
  | .programAddDel     => "ProgramAddDel"
  | .programMainSetup  => "ProgramMainSetup"
  | .programDays       => "ProgramDays"
  | .programStartTime  => "ProgramStartTime"
  | .programDuration   => "ProgramDuration"
  | .timeSync          => "TimeSync"
  | .timeZoneSync      => "TimeZoneSync"
  | .currentRequest    => "CurrentRequest"
  | .emergencyShutdown => "EmergencyShutdown"
  | .stationReboot     => "StationReboot"
  | .syncError         => "SyncError"

/-- The field names of each layout, in its order (30_encoding.md R76 to R87). -/
def fieldNames : OpName → List String
  | .testStation       => ["on", "station_id", "duration_s"]
  | .programAddDel     => ["slot_id", "add"]
  | .programMainSetup  =>
    ["slot_id", "enabled", "use_weather", "odd_even", "schedule_type", "program_count"]
  | .programDays       => ["slot_id", "day_mask"]
  | .programStartTime  => ["slot_id", "st_index", "start_time", "st_type"]
  | .programDuration   => ["slot_id", "station_id", "duration_min"]
  | .timeSync          => ["minutes"]
  | .timeZoneSync      => ["tz_code"]
  | .currentRequest    => []
  | .emergencyShutdown => []
  | .stationReboot     => []
  | .syncError         => []

/-- A written word: a name with some of its fields, or `word` with a hex value (30_encoding.md R90). -/
inductive WordText where
  | named (n : OpName) (given : List (String × Nat))
  | raw (w : Word)
deriving DecidableEq, Repr

/-- The value written for a field; "a field left out is 0" (30_encoding.md R90). -/
def givenField (given : List (String × Nat)) (f : String) : Nat :=
  match given.find? fun g => g.1 == f with
  | some g => g.2
  | none   => 0

/-- The command a name with fields stands for (30_encoding.md R90). -/
def namedInstr (n : OpName) (given : List (String × Nat)) : Instr :=
  .ofFields n ((fieldNames n).map (givenField given))

/-- The word a written word stands for under an `OPC` (30_encoding.md R90). -/
def WordText.value (m : OpcodeMap) : WordText → Word
  | .named n given => encode m (namedInstr n given)
  | .raw w         => w

/-- A command written out with all its fields (30_encoding.md R90). -/
def Instr.written (i : Instr) : WordText := .named i.opName ((fieldNames i.opName).zip i.fields)

/-- A line of a test program (30_encoding.md R91). -/
inductive Line where
  | push (t : WordText)
  | tick (t : Nat)
  | txOk
  | txError
  | rx (t : WordText)
  | rxCrc
  | rxOther
deriving DecidableEq, Repr

namespace Machine

/-- The step a line stands for (30_encoding.md R91). -/
def lineStep (m : OpcodeMap) : Line → Input
  | .push t  => .push (t.value m)
  | .tick t  => .tick t
  | .txOk    => .txDone .ok
  | .txError => .txDone .error
  | .rx t    => .rxDone (.frame (t.value m))
  | .rxCrc   => .rxDone .crcMismatch
  | .rxOther => .rxDone .otherError

/-- A test program placed as a node's next steps, "one step each, executed in order"
(30_encoding.md R91). -/
def State.withScript (s : State) (ls : List Line) : State :=
  { s with inputs := ls.map (lineStep s.cfg.opc) }

end Machine

end Sys2Proof
end

