-- ==== Sys2Proof/Tests/Slice0.lean ====
section
/-! SUPPORT. Tests. The expected results come from the spec: words and fields from the patterns of
30_encoding.md and the table V-ENC of 95_test_vectors.md, effects from its tables DV, RM and ST, each
named at its test. The witnesses at the end show a state and operands that meet the hypotheses of each
statement. -/

namespace Sys2Proof.Tests

open Sys2Proof Sys2Proof.Machine

/-! ### WellFormed refuses each kind of ill-formed term -/

theorem test_wf_testStation : (Instr.testStation 1 255 65535).wf = true ∧
    (Instr.testStation 2 0 0).wf = false ∧ (Instr.testStation 0 256 0).wf = false ∧
    (Instr.testStation 0 0 65536).wf = false := by decide

theorem test_wf_programAddDel : (Instr.programAddDel 127 1).wf = true ∧
    (Instr.programAddDel 128 0).wf = false ∧ (Instr.programAddDel 0 2).wf = false := by decide

theorem test_wf_programMainSetup : (Instr.programMainSetup 127 1 1 3 3 255).wf = true ∧
    (Instr.programMainSetup 128 0 0 0 0 0).wf = false ∧
    (Instr.programMainSetup 0 2 0 0 0 0).wf = false ∧
    (Instr.programMainSetup 0 0 2 0 0 0).wf = false ∧
    (Instr.programMainSetup 0 0 0 4 0 0).wf = false ∧
    (Instr.programMainSetup 0 0 0 0 4 0).wf = false ∧
    (Instr.programMainSetup 0 0 0 0 0 256).wf = false := by decide

theorem test_wf_programDays : (Instr.programDays 127 65535).wf = true ∧
    (Instr.programDays 128 0).wf = false ∧ (Instr.programDays 0 65536).wf = false := by decide

theorem test_wf_programStartTime : (Instr.programStartTime 127 3 65535 1).wf = true ∧
    (Instr.programStartTime 128 0 0 0).wf = false ∧ (Instr.programStartTime 0 4 0 0).wf = false ∧
    (Instr.programStartTime 0 0 65536 0).wf = false ∧
    (Instr.programStartTime 0 0 0 2).wf = false := by decide

theorem test_wf_programDuration : (Instr.programDuration 127 255 2047).wf = true ∧
    (Instr.programDuration 128 0 0).wf = false ∧ (Instr.programDuration 0 256 0).wf = false ∧
    (Instr.programDuration 0 0 2048).wf = false := by decide

theorem test_wf_clock : (Instr.timeSync 134217727).wf = true ∧
    (Instr.timeSync 134217728).wf = false ∧ (Instr.timeZoneSync 255).wf = true ∧
    (Instr.timeZoneSync 256).wf = false := by decide

/-- 70_reset_and_hazards.md R323: each parameter check of a construction. -/
theorem test_config_checks : Config.vectors.valid = true ∧
    { Config.vectors with k := 0 }.valid = false ∧ { Config.vectors with w := 0 }.valid = false ∧
    { OpcodeMap.table with syncError := 1 }.injective = false ∧
    { Config.vectors with opc := { OpcodeMap.table with syncError := 1 } }.valid = false := by decide

/-! ### Words written out from the patterns, decoded and encoded -/

/-- 30_encoding.md R76, VE1. -/
theorem test_word_testStation :
    decodeTableWord 32 0b00001000000000000111100000000111 = some (.testStation 1 3 60) ∧
    encode .table (.testStation 1 3 60) = 0x08007807 := by decide

/-- 30_encoding.md R77, VE5. -/
theorem test_word_programAddDel :
    decodeTableWord 32 0b00010000000000000000000010000010 = some (.programAddDel 2 1) ∧
    encode .table (.programAddDel 2 1) = 0x10000082 := by decide

/-- 30_encoding.md R78, VE10. -/
theorem test_word_programMainSetup :
    decodeTableWord 32 0b00011000000000000110110010000001 =
      some (.programMainSetup 1 1 0 2 1 3) ∧
    encode .table (.programMainSetup 1 1 0 2 1 3) = 0x18006C81 := by decide

/-- 30_encoding.md R79, VE14. -/
theorem test_word_programDays :
    decodeTableWord 32 0b00100000010100101010110100000011 = some (.programDays 3 0xA55A) ∧
    encode .table (.programDays 3 0xA55A) = 0x2052AD03 := by decide

/-- 30_encoding.md R80, VE16. -/
theorem test_word_programStartTime :
    decodeTableWord 32 0b00101010000000101101000100000001 = some (.programStartTime 1 2 360 1) ∧
    encode .table (.programStartTime 1 2 360 1) = 0x2A02D101 := by decide

/-- 30_encoding.md R81, VE19. -/
theorem test_word_programDuration :
    decodeTableWord 32 0b00110000000001111000001000000001 = some (.programDuration 1 4 15) ∧
    encode .table (.programDuration 1 4 15) = 0x30078201 := by decide

/-- 30_encoding.md R82, VE22. -/
theorem test_word_timeSync :
    decodeTableWord 32 0b00111001101100000101010100010101 = some (.timeSync 28333333) ∧
    encode .table (.timeSync 28333333) = 0x39B05515 := by decide

/-- 30_encoding.md R83, VE25. -/
theorem test_word_timeZoneSync :
    decodeTableWord 32 0b01000000000000000000000000110000 = some (.timeZoneSync 48) ∧
    encode .table (.timeZoneSync 48) = 0x40000030 := by decide

/-- 30_encoding.md R84, VE27, VX5. -/
theorem test_word_currentRequest :
    decodeTableWord 32 0b01001000000000000000000000000001 = some .currentRequest ∧
    encode .table .currentRequest = 0x48000000 := by decide

/-- 30_encoding.md R85, VE28. -/
theorem test_word_emergencyShutdown :
    decodeTableWord 32 0b01010000000000000000000000000000 = some .emergencyShutdown ∧
    encode .table .emergencyShutdown = 0x50000000 := by decide

/-- 30_encoding.md R86, VE29. -/
theorem test_word_stationReboot :
    decodeTableWord 32 0b01011000000000000000000000000000 = some .stationReboot ∧
    encode .table .stationReboot = 0x58000000 := by decide

/-- 30_encoding.md R87, VE30, VX6. -/
theorem test_word_syncError :
    decodeTableWord 32 0b01100000000000000000000000000001 = some .syncError ∧
    encode .table .syncError = 0x60000000 := by decide

/-- VX8, VX9, VX11: unknown opcodes. -/
theorem test_unknown_opcodes : slice .table 0x00000000 = .unknown 0 0 ∧
    slice .table 0x68000001 = .unknown 13 1 ∧ slice .table 0xF8000000 = .unknown 31 0 ∧
    decodeOctets .table [0x68, 0, 0, 1] = .error (.unknownOpcode 13 1) ∧
    decodeOctets .table [0x08, 0, 0] = .error .notFourOctets := by decide

/-- VE2, VE18, VE21, VE24, VE26: over-wide fields are truncated. -/
theorem test_truncation : encode .table (.testStation 0 511 0x12345) = 0x08468BFE ∧
    encode .table (.programStartTime 0 4 0 0) = 0x28000000 ∧
    encode .table (.programDuration 2 7 0x800) = 0x30000382 ∧
    encode .table (.timeSync 0x8000000) = 0x38000000 ∧
    encode .table (.timeZoneSync 511) = 0x400000FF := by decide

/-- VX2, VX4, VX7: decode and extract. -/
theorem test_extract : decode 0x0E007807 = (1, 0x6007807) ∧ extract 0x10000082 1 = 0 ∧
    extract 0x10000082 2 = 0x82 ∧ extract 0x60000000 12 = 0 := by decide

/-- VE1's frame, and RT1's and RT4's unused-bit masks and re-encoding. -/
theorem test_frame_and_masks : toFrame 0x08007807 = ⟨0x08, 0x00, 0x78, 0x07⟩ ∧
    fromFrame ⟨0x08, 0x00, 0x78, 0x07⟩ = 0x08007807 ∧ unusedMask .testStation = 0x6000000 ∧
    unusedMask .currentRequest = 0x7FFFFFF ∧ encodeRaw 11 0x7FFFFFF = 0x5FFFFFFF := by decide

/-- VE14: the halves of a day mask (30_encoding.md R79). -/
theorem test_day_halves : daysLo 0xA55A = 0x5A ∧ daysHi 0xA55A = 0xA5 := by decide

/-- 30_encoding.md R90: its examples, a field left out, and a raw word. -/
theorem test_written_words :
    (WordText.named .testStation [("on", 1), ("station_id", 3), ("duration_s", 60)]).value .table =
      0x08007807 ∧
    (WordText.named .programAddDel [("add", 1), ("slot_id", 2)]).value .table = 0x10000082 ∧
    (WordText.named .testStation [("on", 1)]).value .table = 0x08000001 ∧
    (WordText.named .syncError []).value .table = 0x60000000 ∧
    (WordText.raw 0x68000001).value .table = 0x68000001 ∧
    (Instr.programAddDel 2 1).written = .named .programAddDel [("slot_id", 2), ("add", 1)] := by
  decide

/-- 10_state.md R21 and 42_link_tick.md R176: the codes. -/
theorem test_codes : LinkState.receive.code = 4 ∧ LinkState.init.code = 0 ∧
    Event.code .armReceive = 2 ∧ Event.code (.transportError .txFail) = 7 := by decide

/-- 60_exceptions.md R290 and R295: the codes E1 to E4 and what reports them. -/
theorem test_error_codes :
    [ErrorClass.transport, .protocol, .consistency, .capacity].map ErrorClass.code = [1, 2, 3, 4] ∧
    Event.errorClass (.transportError .otherRx) = some .transport ∧
    Event.errorClass (.protocolMismatch 1 2) = some .protocol ∧
    Event.errorClass (.commandLost 1) = none := by decide

/-! ### One step of each command: a Station's tick on a received word -/

/-- The configuration of the vectors with a short duration array. -/
def testConfig : Config := { Config.vectors with nStations := 8, rebootCause := 5 }

/-- A Station in `Receive` that holds the word `w` as a received frame, its store holding `n`
programs. -/
def stationWith (n : Nat) (w : Word) : State :=
  { State.resetWith testConfig .zero with
    ls := .receive, rxFlag := true, rxRes := .frame w, storeCount := n, inputs := [.tick 20] }

/-- What `f` sees in the next state, if there is one. -/
def after {α : Type} (f : State → α) : Host.Outcome State Fault Refusal → Option α
  | .next t    => some (f t)
  | .fault _   => none
  | .refused _ => none

/-- DV2: `on = 0` runs the zone test too. -/
theorem test_step_testStation :
    after (fun t => (t.calls, t.resp)) (step (stationWith 0 0x08007806)) =
      some ([.runZoneTest 3 60], 0x08007806) := by decide

/-- DV3 and DV4: the slot at the count is added, the slot after it purges the store. -/
theorem test_step_programAddDel_add :
    after (fun t => (t.calls, t.storeCount, t.resp)) (step (stationWith 2 0x10000082)) =
      some ([.upsert 2 (.blank 8)], 3, 0x10000082) ∧
    after (fun t => (t.calls, t.storeCount, t.resp)) (step (stationWith 2 0x10000083)) =
      some ([.deleteAll], 0, 0x60000000) := by decide

/-- DV6 and DV7: the last slot is deleted, the slot at the count purges the store. -/
theorem test_step_programAddDel_delete :
    after (fun t => (t.calls, t.storeCount, t.resp)) (step (stationWith 3 0x10000002)) =
      some ([.delete 2], 2, 0x10000002) ∧
    after (fun t => (t.calls, t.storeCount, t.resp)) (step (stationWith 3 0x10000003)) =
      some ([.deleteAll], 0, 0x60000000) := by decide

/-- DV9. -/
theorem test_step_programMainSetup :
    after (fun t => (t.staging, t.calls, t.storeCount)) (step (stationWith 1 0x18006C81)) =
      let g := { Staging.blank 8 with enabled := true, oddEven := 2, scheduleType := 1 }
      some (g, [.upsert 1 g], 2) := by decide

/-- DV10. -/
theorem test_step_programDays :
    after (fun t => (t.staging, t.calls)) (step (stationWith 0 0x20003F80)) =
      some ({ Staging.blank 8 with days := 0x7F }, []) := by decide

/-- DV11. -/
theorem test_step_programStartTime :
    after (fun t => (t.staging, t.calls)) (step (stationWith 0 0x2A02D101)) =
      some ({ Staging.blank 8 with startTimes := [0, 0, 360, 0], stType := true }, []) := by decide

/-- DV12. -/
theorem test_step_programDuration :
    after (fun t => (t.staging, t.calls)) (step (stationWith 0 0x30078201)) =
      some ({ Staging.blank 8 with durations := [0, 0, 0, 0, 15, 0, 0, 0] }, []) := by decide

/-- DV14. -/
theorem test_step_timeSync :
    after (fun t => (t.calls, t.resp)) (step (stationWith 0 0x3FFFFFFF)) =
      some ([.setTime 8053063620], 0x3FFFFFFF) := by decide

/-- DV15. -/
theorem test_step_timeZoneSync :
    after (fun t => (t.calls, t.resp)) (step (stationWith 0 0x40000030)) =
      some ([.setTimezone 48, .disableNtp], 0x40000030) := by decide

/-- DV16. -/
theorem test_step_currentRequest :
    after (fun t => (t.calls, t.resp)) (step (stationWith 0 0x48000000)) =
      some ([], 0x48000000) := by decide

/-- DV17. -/
theorem test_step_emergencyShutdown :
    after (fun t => (t.calls, t.resp)) (step (stationWith 0 0x50000000)) =
      some ([], 0x50000000) := by decide

/-- DV18. -/
theorem test_step_stationReboot :
    after (fun t => (t.calls, t.rebootRequested, t.resp)) (step (stationWith 0 0x58000000)) =
      some ([.requestReboot 5], true, 0x58000000) := by decide

/-- DV19. -/
theorem test_step_syncError :
    after (fun t => (t.calls, t.resp, t.pendingSyncError)) (step (stationWith 0 0x60000000)) =
      some ([], 0x60000000, false) := by decide

/-- DV20 and ST15: an unknown opcode. -/
theorem test_step_unknown :
    after (fun t => (t.calls, t.out)) (step (stationWith 0 0x68000001)) =
      some ([], [.dispatch 0x68000001, .submit ⟨0x68, 0, 0, 1⟩]) := by decide

/-- DV21: the pending flag of an earlier dispatch is cleared. -/
theorem test_step_clears_pending :
    after (fun t => (t.pendingSyncError, t.resp))
      (step { stationWith 1 0x08007807 with pendingSyncError := true }) =
      some (false, 0x08007807) := by decide

/-! ### One step of the link -/

/-- A Remote with the words `h` held, in state `l`, `deadline` 16, and `i` as the next step. -/
def remoteWith (l : LinkState) (h : List Word) (i : List Input) : State :=
  { State.resetWith { testConfig with role := .remote } .zero with
    ls := l, hold := (h ++ List.replicate 4 0).take 4, count := h.length, deadline := 16,
    inputs := i }

/-- A Station in `Send` with an unsent response and the windows of ST5. -/
def stationSending (i : List Input) : State :=
  { State.resetWith { testConfig with s := 2 } .zero with
    ls := .send, txPending := true, resp := 0x08007807, deadline := 25, settleAt := 22,
    inputs := i }

/-- RM4. -/
theorem test_remote_submits :
    after (fun t => (t.ls, t.deadline, t.out))
      (step (remoteWith .buffering [0x08007807] [.tick 10])) =
      some (.send, 15, [.submit ⟨0x08, 0x00, 0x78, 0x07⟩]) := by decide

/-- RM7: a transmit error moves to `Receive` as a completion does. -/
theorem test_remote_tx_error :
    after (fun t => (t.ls, t.deadline, t.out))
      (step { remoteWith .send [0x08007807] [.tick 11] with txFlag := true, txRes := .error }) =
      some (.receive, 16, [.transportError .txFail, .armReceive]) := by decide

/-- RM9: the timer is not reset on the expiry path. -/
theorem test_remote_send_expires :
    after (fun t => (t.ls, t.deadline, t.out)) (step (remoteWith .send [0x08007807] [.tick 16])) =
      some (.receive, 16, [.armReceive]) := by decide

/-- RM12 and RM17: a matching response, and a SyncError response with a payload. -/
theorem test_remote_response :
    after (fun t => (t.ls, t.count, t.deadline, t.out))
      (step { remoteWith .receive [0x08007807] [.tick 12] with
        rxFlag := true, rxRes := .frame 0x08007807 }) = some (.buffering, 0, 17, []) ∧
    after (fun t => (t.ls, t.count, t.deadline, t.out))
      (step { remoteWith .receive [0x08007807] [.tick 12] with
        rxFlag := true, rxRes := .frame 0x60000001 }) =
      some (.buffering, 0, 17, [.storeDeleteAll, .protocolMismatch 0x08007807 0x60000001]) := by
  decide

/-- RM20 and RM22: a receive error re-arms, and the window's expiry loses the word. -/
theorem test_remote_receive_ends :
    after (fun t => (t.ls, t.count, t.out))
      (step { remoteWith .receive [0x08007807] [.tick 12] with
        rxFlag := true, rxRes := .otherError }) =
      some (.receive, 1, [.transportError .otherRx, .armReceive]) ∧
    after (fun t => (t.ls, t.count, t.out))
      (step (remoteWith .receive [0x08007807] [.tick 16])) =
      some (.buffering, 0, [.commandLost 0x08007807]) := by decide

/-- L3's lines: a push and a delivery by their written words (30_encoding.md R91). -/
theorem test_script :
    ((remoteWith .buffering [] []).withScript
      [.push (.named .timeZoneSync [("tz_code", 48)]), .tick 3, .txOk, .rx (.raw 7), .rxCrc]).inputs =
      [.push 0x40000030, .tick 3, .txDone .ok, .rxDone (.frame 7), .rxDone .crcMismatch] := by
  decide

/-- VH7: a push on a full hold is lost without a signal. -/
theorem test_push_full :
    after (fun t => (heldWords t, t.out)) (step (remoteWith .buffering [1, 2, 3, 4] [.push 5])) =
      some ([1, 2, 3, 4], []) := by decide

/-- RM7, RM17, DV4 and VH7: a step that raises an error of each class. -/
theorem test_error_classes :
    let errors := fun s => after (stepErrors s) (step s)
    errors { remoteWith .send [7] [.tick 11] with txFlag := true, txRes := .error } =
      some [.transport] ∧
    errors { remoteWith .receive [7] [.tick 12] with
      rxFlag := true, rxRes := .frame 0x60000001 } = some [.protocol] ∧
    errors (stationWith 2 0x10000083) = some [.consistency] ∧
    errors (remoteWith .buffering [1, 2, 3, 4] [.push 5]) = some [.capacity] := by decide

/-- ST1: the first tick after reset arms a Station's receiver. -/
theorem test_station_arms :
    after (fun t => (t.ls, t.armed, t.out)) (step { State.reset with inputs := [.tick 0] }) =
      some (.receive, true, [.armReceive]) := by decide

/-- ST6 and ST7: the settle delay. -/
theorem test_station_settles :
    after (fun t => (t.ls, t.txPending, t.out)) (step (stationSending [.tick 21])) =
      some (.send, true, []) ∧
    after (fun t => (t.ls, t.txPending, t.out)) (step (stationSending [.tick 22])) =
      some (.send, false, [.submit ⟨0x08, 0x00, 0x78, 0x07⟩]) := by decide

/-- ST11: the window ends before the settle action ran. -/
theorem test_station_window_ends :
    after (fun t => (t.ls, t.txPending, t.out)) (step (stationSending [.tick 25])) =
      some (.receive, false, [.armReceive]) := by decide

/-! ### Witnesses: a state and operands that meet the hypotheses of each statement -/

/-- A Station in `Send` meets the invariant. -/
theorem witness_inv_stationSending : LinkInv (stationSending []) := by
  constructor <;> decide

theorem witness_inv_stationWith : LinkInv (stationWith 2 0x10000082) := by
  constructor <;> decide

theorem witness_inv_remote_buffering : LinkInv (remoteWith .buffering [7] []) := by
  constructor <;> decide

theorem witness_inv_remote_send : LinkInv (remoteWith .send [7] []) := by constructor <;> decide

theorem witness_inv_remote_receive : LinkInv (remoteWith .receive [7, 9] []) := by
  constructor <;> decide

theorem witness_EncodeDecodeSliceRoundTrip : OpcodeMap.table.injective = true ∧
    slice .table 0x0E007807 = .known (.testStation 1 3 60) := by decide

theorem witness_WellFormedCommandsSurviveTheWire : OpcodeMap.table.injective = true ∧
    (Instr.programMainSetup 127 1 1 3 3 255).wf = true ∧
    decodeOctets .table (⟨0x18, 0x1F, 0xFF, 0xFF⟩ : Frame).octets =
      .ok (.programMainSetup 127 1 1 3 3 255) := by decide

theorem witness_OverWideFieldsAreTruncated : OpcodeMap.table.injective = true ∧
    (layout .testStation)[2]? = some (24, 9) ∧
    [0, 511, 0x12345].length = (layout .testStation).length := by decide

theorem witness_SliceIgnoresUnusedBits :
    OpcodeMap.table.name? (opcodeOf 0x0E007807) = some .testStation := by decide

/-- `KnownOpcodesAreTheValuesOfOPC` and `ExtractGivesThePayloadOnlyOnAMatch`. -/
theorem witness_injective : OpcodeMap.table.injective = true := by decide

/-- A full hold, and a hold with one place left. -/
theorem witness_PushAppendsOrDropsSilently :
    (let s := remoteWith .buffering [1, 2, 3, 4] []; s.count = s.cfg.k) ∧
    (let s := remoteWith .buffering [1, 2, 3] []; s.count < s.cfg.k ∧ s.hold.length = s.cfg.k) := by
  decide

/-- A full hold and an empty one. -/
theorem witness_PeekAndPopWorkOnTheNewestWord :
    (let s := remoteWith .buffering [1, 2, 3, 4] []; s.count ≤ s.hold.length) ∧
    (let s := remoteWith .buffering [] []; s.count ≤ s.hold.length ∧ s.count = 0) := by decide

theorem witness_ReleaseOrderIsLastInFirstOut :
    let s := remoteWith .buffering [1, 2] []
    s.hold.length = s.cfg.k ∧ s.count + [(3 : Word), 4].length ≤ s.cfg.k := by decide

theorem witness_CapacityIsNeverExceeded :
    let s := remoteWith .buffering [1, 2, 3, 4] []
    s.count ≤ s.cfg.k ∧ s.count = s.cfg.k := by decide

/-- The last station of the array and the first beyond it. -/
theorem witness_StagingCommandsComplete :
    7 < (stationWith 0 0).cfg.nStations ∧ (stationWith 0 0).cfg.nStations ≤ 8 := by decide

/-- Each clause at the slots next to the count. -/
theorem witness_ProgramAddDelCompletes :
    let s := stationWith 2 0
    (1 % 2 = 1 ∧ 2 = s.storeCount) ∧ (0 % 2 = 0 ∧ 1 < s.storeCount) ∧
    (1 % 2 = 1 ∧ 3 ≠ s.storeCount) ∧ (1 % 2 = 1 ∧ 1 ≠ s.storeCount) ∧
    (0 % 2 = 0 ∧ s.storeCount ≤ 2) := by decide

/-- `ResponseIsTheWordOrSyncError` and `DispatchWritesNoLinkRegister`, on a word that desynchronises, on
one that does not, and on an unknown one. -/
theorem witness_ResponseIsTheWordOrSyncError :
    (∃ t, runDispatch 0x10000083 (stationWith 2 0) = .next t) ∧
    (∃ t, runDispatch 0x10000082 (stationWith 2 0) = .next t) ∧
    (∃ t, runDispatch 0x68000001 (stationWith 2 0) = .next t) ∧
    desyncs 2 (slice .table 0x10000083) = true ∧ desyncs 2 (slice .table 0x10000082) = false :=
  ⟨⟨_, rfl⟩, ⟨_, rfl⟩, ⟨_, rfl⟩, by decide⟩

theorem witness_EveryWordIsDispatchedToItsEnd : 256 ≤ State.reset.cfg.nStations := by decide

theorem witness_OnlyAddAndSetupCommitStaging :
    after (fun t => decide (Call.upsert 2 (.blank 8) ∈ t.calls))
      (exec (.programAddDel 2 1) (stationWith 2 0)) = some true ∧
    after (fun t => decide (Call.upsert 2 { Staging.blank 8 with enabled := true } ∈ t.calls))
      (exec (.programMainSetup 2 1 0 0 0 0) (stationWith 2 0)) = some true := by decide

theorem witness_StepRunsTheDecodedCommand :
    let s := stationWith 2 0x10000082
    s.cfg.role = .station ∧ s.ls = .receive ∧ s.rxFlag = true ∧ s.rxRes = .frame 0x10000082 ∧
    s.inputs = [.tick 20] ∧ s.lastNow ≤ 20 ∧
    decodeOctets s.cfg.opc (toFrame 0x10000082).octets = .ok (.programAddDel 2 1) := by decide

theorem witness_TheFetchedTableWordRunsNext :
    decodeTableWord 32 0x10000082 = some (.programAddDel 2 1) := by decide

/-- `RemoteLeavesInitAndAssociateByAssociation`, associated and not. -/
theorem witness_RemoteLeavesInit :
    (let s := remoteWith .init [] []; s.cfg.role = .remote ∧ s.lastNow ≤ 0 ∧ s.ls = .init ∧
      s.associated = true) ∧
    (let s := { remoteWith .associate [] [] with associated := false }
     s.cfg.role = .remote ∧ s.lastNow ≤ 0 ∧ s.ls = .associate ∧ s.associated = false) := by decide

/-- A hold with one word, and an empty one. -/
theorem witness_RemoteBufferingSendsTheTop :
    (let s := remoteWith .buffering [7] []
     s.cfg.role = .remote ∧ s.lastNow ≤ 0 ∧ s.ls = .buffering ∧ 0 < size s) ∧
    (let s := remoteWith .buffering [] []
     s.cfg.role = .remote ∧ s.lastNow ≤ 0 ∧ s.ls = .buffering ∧ size s = 0) := by decide

/-- A completion at the expiry, the expiry itself, and the second before it. -/
theorem witness_RemoteSendEndsByCompletionOrExpiry :
    (let s := { remoteWith .send [7] [] with txFlag := true }
     s.cfg.role = .remote ∧ s.lastNow ≤ 16 ∧ s.ls = .send ∧ s.txFlag = true) ∧
    (let s := remoteWith .send [7] []
     s.cfg.role = .remote ∧ s.lastNow ≤ 15 ∧ s.ls = .send ∧ s.txFlag = false ∧
      s.deadline ≤ 16 ∧ 15 < s.deadline) := by decide

theorem witness_RemoteTakesAResponse :
    let s := { remoteWith .receive [7] [] with rxFlag := true, rxRes := .frame 7 }
    s.cfg.role = .remote ∧ s.lastNow ≤ 12 ∧ s.ls = .receive ∧ s.rxFlag = true ∧
    s.rxRes = .frame 7 ∧ peekTop s = some 7 := by decide

/-- Both errors, each under a policy. -/
theorem witness_RemoteReceiveErrorFollowsThePolicy :
    (let s := { remoteWith .receive [7] [] with rxFlag := true, rxRes := .crcMismatch }
     s.cfg.role = .remote ∧ s.lastNow ≤ 12 ∧ s.ls = .receive ∧ s.rxFlag = true ∧
      s.rxRes = .crcMismatch ∧ s.cfg.rxErrorPolicy = .rearm) ∧
    (let s := { remoteWith .receive [7] [] with
       rxFlag := true, rxRes := .otherError,
       cfg := { testConfig with role := .remote, rxErrorPolicy := .expire } }
     s.cfg.role = .remote ∧ s.lastNow ≤ 12 ∧ s.ls = .receive ∧ s.rxFlag = true ∧
      s.rxRes = .otherError ∧ s.cfg.rxErrorPolicy = .expire ∧ peekTop s = some 7) := by decide

/-- The expiry, and the second before it. -/
theorem witness_RemoteReceiveWindowExpires :
    let s := remoteWith .receive [7] []
    s.cfg.role = .remote ∧ s.lastNow ≤ 15 ∧ s.ls = .receive ∧ s.rxFlag = false ∧
    s.deadline ≤ 16 ∧ 15 < s.deadline ∧ peekTop s = some 7 := by decide

/-- `StationLeavesInitAndAssociateByAssociation`, associated and not. -/
theorem witness_StationLeavesInit :
    (let s := State.reset; s.cfg.role = .station ∧ s.lastNow ≤ 0 ∧ s.ls = .init ∧
      s.associated = true) ∧
    (let s := { State.reset with ls := .associate, associated := false }
     s.cfg.role = .station ∧ s.lastNow ≤ 0 ∧ s.ls = .associate ∧ s.associated = false) := by
  decide

theorem witness_StationListensUntilAFrame :
    (let s := { stationWith 0 0 with rxFlag := false }
     s.cfg.role = .station ∧ s.lastNow ≤ 20 ∧ s.ls = .receive ∧ s.rxFlag = false) ∧
    (let s := { stationWith 0 0 with rxRes := .crcMismatch }
     s.cfg.role = .station ∧ s.lastNow ≤ 20 ∧ s.ls = .receive ∧ s.rxFlag = true ∧
      s.rxRes = .crcMismatch) ∧
    (let s := { stationWith 0 0 with rxRes := .otherError }
     s.cfg.role = .station ∧ s.lastNow ≤ 20 ∧ s.ls = .receive ∧ s.rxFlag = true ∧
      s.rxRes = .otherError) := by decide

/-- S = 0, and the least S above it. -/
theorem witness_StationDispatchesAndMovesToSend :
    (let s := stationWith 2 0x10000082
     s.cfg.role = .station ∧ s.lastNow ≤ 20 ∧ s.ls = .receive ∧ s.rxFlag = true ∧
      s.rxRes = .frame 0x10000082 ∧ s.cfg.s = 0 ∧
      ∃ t, runDispatch 0x10000082 { s with rxFlag := false } = .next t) ∧
    (let s := { stationWith 2 0x10000082 with cfg := { testConfig with s := 1 } }
     s.cfg.role = .station ∧ s.lastNow ≤ 20 ∧ s.ls = .receive ∧ s.rxFlag = true ∧
      s.rxRes = .frame 0x10000082 ∧ 0 < s.cfg.s ∧
      ∃ t, runDispatch 0x10000082 { s with rxFlag := false } = .next t) :=
  ⟨⟨by decide, by decide, by decide, by decide, by decide, by decide, _, rfl⟩,
   ⟨by decide, by decide, by decide, by decide, by decide, by decide, _, rfl⟩⟩

/-- A completion of the sent response; the expiry at 25; and before it the second before the settle
time and the settle time. -/
theorem witness_StationSendSettlesCompletesOrExpires :
    (let s := { stationSending [] with txPending := false, txFlag := true }
     s.cfg.role = .station ∧ s.lastNow ≤ 21 ∧ s.ls = .send ∧ s.txPending = false ∧
      s.txFlag = true) ∧
    (let s := stationSending []
     s.cfg.role = .station ∧ s.lastNow ≤ 21 ∧ s.ls = .send ∧ s.txPending = true ∧
      s.deadline ≤ 25 ∧ 24 < s.deadline ∧ ¬ s.settleAt ≤ 21 ∧ s.settleAt ≤ 22 ∧
      22 < s.deadline) := by decide

theorem witness_DeliveriesWriteOneEventCell :
    (remoteWith .send [7] [.txDone .error]).inputs = [.txDone .error] ∧
    (remoteWith .send [7] [.rxDone .crcMismatch]).inputs = [.rxDone .crcMismatch] := by decide

/-- One state for each reason of `StepIsRefusedExactlyWhenTheSpecHasNone`, the station just outside the
array among them. -/
theorem witness_StepIsRefused :
    step { remoteWith .send [7] [.tick 2] with lastNow := 3 } = .refused .timeBackwards ∧
    step { stationWith 0 0 with inputs := [.push 7] } = .refused .pushOnStation ∧
    step (stationWith 0 0x30000400) = .refused .durationOutOfRange ∧
    slice .table 0x30000400 = .known (.programDuration 0 8 0) :=
  ⟨rfl, rfl, rfl, by decide⟩

theorem witness_ConstructionMeetsTheInvariant : Config.vectors.valid = true ∧
    ¬ { Config.vectors with k := 0 }.valid = true := by decide

/-- `EveryStepKeepsTheInvariant` and `HoldChangesOnlyByPushAndWindowEnd`. -/
theorem witness_EveryStepKeepsTheInvariant :
    LinkInv (stationWith 2 0x10000082) ∧ ∃ t, step (stationWith 2 0x10000082) = .next t :=
  ⟨witness_inv_stationWith, _, rfl⟩

theorem witness_NoRunFaults : LinkInv (stationWith 2 0x10000082) := witness_inv_stationWith

/-- A step that goes on, for the statements whose only hypothesis it is, in each role. -/
theorem witness_step_goes_on :
    (∃ t, step (stationWith 2 0x10000082) = .next t) ∧
    ∃ t, step (remoteWith .buffering [7] [.tick 0]) = .next t := ⟨⟨_, rfl⟩, ⟨_, rfl⟩⟩

/-- A push with room and the end of a window. -/
theorem witness_HoldChangesOnlyByPushAndWindowEnd :
    LinkInv (remoteWith .receive [7] [.tick 16]) ∧
    (∃ t, step (remoteWith .receive [7] [.tick 16]) = .next t) ∧
    LinkInv (remoteWith .buffering [7] [.push 9]) ∧
    ∃ t, step (remoteWith .buffering [7] [.push 9]) = .next t :=
  ⟨by constructor <;> decide, ⟨_, rfl⟩, by constructor <;> decide, ⟨_, rfl⟩⟩

/-- Two states that differ in every register no rule can read. -/
theorem witness_UnwrittenRegistersAreNeverRead :
    SameVisible (remoteWith .buffering [7] [.tick 0])
      { remoteWith .buffering [7] [.tick 0] with
        deadline := 9, txRes := .error, rxRes := .crcMismatch, hold := [7, 1, 2, 3], resp := 5,
        settleAt := 6 } := by
  constructor <;> decide

theorem witness_SubmittedFramesAreTheTopOrTheResponse :
    after (fun t => decide (Event.submit (toFrame 7) ∈ t.out))
      (step (remoteWith .buffering [7] [.tick 0])) = some true ∧
    after (fun t => decide (Event.submit (toFrame 0x08007807) ∈ t.out))
      (step (stationSending [.tick 22])) = some true := by decide

/-- A tick of a Remote in `Send` clears a pending transmit cell, and one in `Receive` a pending receive
cell. -/
theorem witness_CompletionsArePendingUntilTested :
    after (fun t => t.txFlag) (step { remoteWith .send [7] [.tick 11] with txFlag := true }) =
      some false ∧
    after (fun t => t.rxFlag) (step { remoteWith .receive [7] [.tick 11] with rxFlag := true }) =
      some false := by decide

theorem witness_UnassociatedNodeWaitsForEver :
    let s := { remoteWith .associate [7] [.tick 1, .tick 2] with associated := false }
    s.associated = false ∧ s.ls = .associate ∧ s.out = [] ∧
    ∃ t, Sys2Proof.core.run 2 s = .next t :=
  ⟨rfl, rfl, rfl, _, rfl⟩

/-- The settle delay equal to the window. -/
theorem witness_SettleDelayAtLeastTheWindowNeverAnswers :
    let s := { stationWith 2 0x10000082 with cfg := { testConfig with s := 5 } }
    LinkInv s ∧ s.cfg.role = .station ∧ s.cfg.w ≤ s.cfg.s ∧ ∃ t, step s = .next t :=
  ⟨by constructor <;> decide, by decide, by decide, _, rfl⟩

theorem witness_SendTimeoutLeavesNoReceiveWindow :
    let s := remoteWith .send [7] [.tick 16, .tick 16]
    LinkInv s ∧ s.cfg.role = .remote ∧ s.ls = .send ∧ s.txFlag = false ∧ s.lastNow ≤ 16 ∧
    s.deadline ≤ 16 ∧ peekTop s = some 7 ∧ s.inputs = [.tick 16, .tick 16] :=
  ⟨by constructor <;> decide, by decide⟩

theorem witness_BackoffDoesNotDelayTheNextWord :
    let s := { remoteWith .receive [7, 9] [.tick 12, .tick 12] with
      rxFlag := true, rxRes := .frame 9 }
    LinkInv s ∧ s.cfg.role = .remote ∧ s.ls = .receive ∧ s.rxFlag = true ∧ s.rxRes = .frame 9 ∧
    s.lastNow ≤ 12 ∧ 2 ≤ s.count ∧ s.inputs = [.tick 12, .tick 12] :=
  ⟨by constructor <;> decide, by decide⟩

/-- A hold with one place left, and one time for all three ticks. -/
theorem witness_PushDuringARoundTripMismatches :
    let s := remoteWith .send [1, 2, 7] []
    LinkInv s ∧ s.cfg.role = .remote ∧ s.ls = .send ∧ peekTop s = some 7 ∧ (7 : Word) ≠ 9 ∧
    opcodeOf 7 ≠ s.cfg.opc.syncError ∧ s.count < s.cfg.k ∧ s.lastNow ≤ 10 :=
  ⟨by constructor <;> decide, by decide⟩

/-- The window's last tick at its very expiry. -/
theorem witness_UnansweredCommandIsLostWithoutRetry :
    let s := remoteWith .buffering [7] [.tick 10, .txDone .ok, .tick 11, .tick 16]
    LinkInv s ∧ s.cfg.role = .remote ∧ s.ls = .buffering ∧ heldWords s = [7] ∧ s.lastNow ≤ 10 ∧
    11 + s.cfg.w ≤ 16 ∧ s.inputs = [.tick 10, .txDone .ok, .tick 11, .tick 16] :=
  ⟨by constructor <;> decide, by decide⟩

/-- The nodes of L3-1: a Remote that holds the word of VE1 and a Station that listens. -/
def pair : System where
  remote    := remoteWith .buffering [0x08007807] []
  station   := { State.reset with ls := .receive, armed := true }
  toRemote  := []
  toStation := []

theorem witness_inv_pair : LinkInv pair.remote ∧ LinkInv pair.station := by
  constructor <;> constructor <;> first | exact List.length_replicate | decide

theorem witness_CommandTravelsEndToEnd :
    pair.remote.cfg.role = .remote ∧ pair.remote.ls = .buffering ∧
    heldWords pair.remote = [0x08007807] ∧ pair.remote.lastNow ≤ 10 ∧
    pair.station.cfg.role = .station ∧ pair.station.ls = .receive ∧ pair.station.armed = true ∧
    pair.station.cfg.s = 0 ∧ pair.station.lastNow ≤ 10 ∧ 256 ≤ pair.station.cfg.nStations ∧
    desyncs pair.station.storeCount (slice pair.station.cfg.opc 0x08007807) = false ∧
    opcodeOf 0x08007807 ≠ pair.remote.cfg.opc.syncError ∧
    pair.toRemote = [] ∧ pair.toStation = [] := by decide

/-- One step for each class, and a push with one place left, which raises none. -/
theorem witness_EachErrorClassIsRaisedExactlyByItsCause :
    (∃ t, step { remoteWith .receive [7] [.tick 12] with
      rxFlag := true, rxRes := .crcMismatch } = .next t) ∧
    (∃ t, step { remoteWith .receive [7] [.tick 12] with
      rxFlag := true, rxRes := .frame 9 } = .next t) ∧
    (∃ t, step (stationWith 2 0x10000083) = .next t) ∧
    (let s := remoteWith .buffering [1, 2, 3, 4] [.push 5]
     s.cfg.k ≤ s.count ∧ ∃ t, step s = .next t) ∧
    (let s := remoteWith .buffering [1, 2, 3] [.push 5]
     ¬ s.cfg.k ≤ s.count ∧ ∃ t, step s = .next t) :=
  ⟨⟨_, rfl⟩, ⟨_, rfl⟩, ⟨_, rfl⟩, ⟨by decide, _, rfl⟩, ⟨by decide, _, rfl⟩⟩

end Sys2Proof.Tests
end

section
/-! SUPPORT. The registers the invariant of 10_state.md R34 speaks of, the operations that leave them, and
the condition under which each of the others keeps the invariant. -/

namespace Sys2Proof.Machine

/-! ### The registers of the invariant -/

/-- What `LinkInv` reads of a state. -/
structure LinkRegs where
  cfg         : Config
  ls          : LinkState
  associated  : Bool
  deadline    : Nat
  hold        : List Word
  count       : Nat
  txPending   : Bool
  settleAt    : Nat
  nStartTimes : Nat
  nDurations  : Nat

/-- The registers of the invariant in `s`, which alone decide it (`linkInv_of_linkRegs_eq`). -/
def linkRegs (s : State) : LinkRegs where
  cfg         := s.cfg
  ls          := s.ls
  associated  := s.associated
  deadline    := s.deadline
  hold        := s.hold
  count       := s.count
  txPending   := s.txPending
  settleAt    := s.settleAt
  nStartTimes := s.staging.startTimes.length
  nDurations  := s.staging.durations.length

theorem linkInv_of_linkRegs_eq {s t : State} (h : linkRegs t = linkRegs s) (hi : LinkInv s) :
    LinkInv t := by
  simp only [linkRegs, LinkRegs.mk.injEq] at h
  obtain ⟨hcfg, hls, hassoc, hdeadline, hhold, hcount, hpending, hsettle, hstart, hdur⟩ := h
  constructor <;>
    simp only [hcfg, hls, hassoc, hdeadline, hhold, hcount, hpending, hsettle, hstart, hdur]
  exacts [hi.config, hi.associated, hi.countLe, hi.holdRemote, hi.holdStation, hi.topHeld,
    hi.noBuffering, hi.pendingSend, hi.settleTime, hi.waiting, hi.startTimes, hi.durations]

section
variable (s : State)

@[simp] theorem emit_linkRegs (e : Event) : linkRegs (emit e s) = linkRegs s := rfl
@[simp] theorem call_linkRegs (c : Call) : linkRegs (call c s) = linkRegs s := rfl
@[simp] theorem deliverTx_linkRegs (r : TxResult) : linkRegs (deliverTx r s) = linkRegs s := rfl
@[simp] theorem deliverRx_linkRegs (q : RxResult) : linkRegs (deliverRx q s) = linkRegs s := rfl
@[simp] theorem drainTx_linkRegs : linkRegs (drainTx s) = linkRegs s := rfl
@[simp] theorem drainRx_linkRegs : linkRegs (drainRx s) = linkRegs s := rfl
@[simp] theorem submit_linkRegs (w : Word) : linkRegs (submit w s) = linkRegs s := rfl
@[simp] theorem armReceiver_linkRegs : linkRegs (armReceiver s) = linkRegs s := rfl
@[simp] theorem clearTrace_linkRegs : linkRegs (clearTrace s) = linkRegs s := rfl
@[simp] theorem setInputs_linkRegs (rest : List Input) :
    linkRegs (setInputs rest s) = linkRegs s := rfl
@[simp] theorem stamp_linkRegs (now : Nat) : linkRegs (stamp now s) = linkRegs s := rfl
@[simp] theorem reportTx_linkRegs (r : TxResult) : linkRegs (reportTx r s) = linkRegs s := by
  rw [reportTx_eq]; rfl
@[simp] theorem reportMismatch_linkRegs (c r : Word) :
    linkRegs (reportMismatch c r s) = linkRegs s := by
  rw [reportMismatch_eq]; rfl
@[simp] theorem purgeOnSyncError_linkRegs (r : Word) :
    linkRegs (purgeOnSyncError r s) = linkRegs s := by
  rw [purgeOnSyncError_eq]; rfl
@[simp] theorem storeUpsert_linkRegs (i : Nat) : linkRegs (storeUpsert i s) = linkRegs s := by
  simp [linkRegs]
@[simp] theorem storeDelete_linkRegs (i : Nat) : linkRegs (storeDelete i s) = linkRegs s := rfl
@[simp] theorem desync_linkRegs : linkRegs (desync s) = linkRegs s := rfl
@[simp] theorem clearPending_linkRegs : linkRegs (clearPending s) = linkRegs s := rfl
@[simp] theorem respond_linkRegs : linkRegs (respond s) = linkRegs s := rfl
@[simp] theorem beginDispatch_linkRegs (w : Word) :
    linkRegs (beginDispatch w s) = linkRegs s := rfl

end

/-! ### A dispatch -/

theorem dispatchWith_linkRegs {branch : State → Host.Outcome State Fault Refusal} {s t : State}
    (hb : ∀ a b, branch a = .next b → linkRegs b = linkRegs a)
    (h : dispatchWith branch s = .next t) : linkRegs t = linkRegs s := by
  obtain ⟨a, ha, rfl⟩ := dispatchWith_eq_next.mp h
  simp [hb _ _ ha]

/-- No branch of the dispatcher writes a register of the invariant: the staging record's arrays keep
their lengths, and everything else it writes is the dispatcher's own (45_dispatcher_contract.md R261). -/
theorem exec_linkRegs {i : Instr} {s t : State} (h : exec i s = .next t) :
    linkRegs t = linkRegs s := by
  cases i <;> simp only [exec, execTestStation, execProgramAddDel, execProgramMainSetup,
    execProgramDays, execProgramStartTime, execProgramDuration, execTimeSync, execTimeZoneSync,
    execCurrentRequest, execEmergencyShutdown, execStationReboot, execSyncError] at h <;>
    refine dispatchWith_linkRegs (fun a b hab => ?_) h
  case testStation | timeSync | timeZoneSync | currentRequest | emergencyShutdown | syncError =>
    cases hab; simp
  case stationReboot | programMainSetup | programDays | programStartTime =>
    cases hab; simp [linkRegs]
  case programAddDel =>
    split at hab <;> split at hab <;> cases hab <;> simp
  case programDuration =>
    split at hab
    · cases hab; simp [linkRegs]
    · cases hab

theorem runDispatch_linkRegs {w : Word} {s t : State} (h : runDispatch w s = .next t) :
    linkRegs t = linkRegs s := by
  unfold runDispatch at h
  split at h
  · simpa using exec_linkRegs h
  · unfold execUnknown at h
    have hregs := dispatchWith_linkRegs (fun a b hab => by cases hab; rfl) h
    simpa using hregs

/-! ### What no step writes -/

theorem cfg_associated_of_linkRegs_eq {s t : State} (h : linkRegs t = linkRegs s) :
    t.cfg = s.cfg ∧ t.associated = s.associated :=
  ⟨congrArg LinkRegs.cfg h, congrArg LinkRegs.associated h⟩

theorem transition_cfg_associated {now : Nat} {s : State} {p : State × Bool}
    (h : TransitionCase now s p) : p.1.cfg = s.cfg ∧ p.1.associated = s.associated := by
  cases h with
  | stationDispatches w t _ _ _ _ hd =>
    have hregs : linkRegs t = linkRegs s := by simpa using runDispatch_linkRegs hd
    simpa using cfg_associated_of_linkRegs_eq hregs
  | _ => simp

theorem actionPhase_cfg_associated (now : Nat) (old : LinkState) (rearm : Bool) (s : State) :
    (actionPhase now old rearm s).cfg = s.cfg ∧
      (actionPhase now old rearm s).associated = s.associated := by
  rcases actionPhase_cases now old rearm s with
    ⟨_, _, _, _, _, he⟩ | ⟨_, _, he⟩ | ⟨_, _, _, _, he⟩ | ⟨_, _, _, he⟩ <;> simp [he]

theorem step_cfg_associated {s t : State} (h : step s = .next t) :
    t.cfg = s.cfg ∧ t.associated = s.associated := by
  cases step_cases h with
  | idle | push | txDone | rxDone => simp
  | tick now rest p _ _ hp =>
    obtain ⟨hcfg, hassoc⟩ := transition_cfg_associated hp
    simp [actionPhase_cfg_associated, hcfg, hassoc]

/-- Settles O41, from what the cases of a step leave unchanged. -/
theorem noStepWritesRoleOrAssociated : Obligations.NoStepWritesRoleOrAssociated :=
  ⟨fun _ _ h => step_cfg_associated h, fun _ _ => rfl⟩

/-! ### The operations that write a register of the invariant -/

section
variable {s : State} (hi : LinkInv s)
include hi

theorem LinkInv.txPending_eq_false (h : s.cfg.role = .remote ∨ s.ls ≠ .send) :
    s.txPending = false := by
  by_contra hp
  obtain ⟨hr, hl⟩ := hi.pendingSend (by simpa using hp)
  simp [hr, hl] at h

theorem LinkInv.associated_eq_true (h₁ : s.ls ≠ .init) (h₂ : s.ls ≠ .associate) :
    s.associated = true := by
  by_contra ha
  exact (hi.waiting (by simpa using ha)).elim h₁ h₂

/-- A control transfer keeps the invariant where the new state is one R34 allows. -/
theorem goTo_keeps_linkInv {l : LinkState} (hp : s.txPending = false)
    (ha : s.associated = true ∨ l = .init ∨ l = .associate)
    (ht : s.cfg.role = .remote → l = .send ∨ l = .receive → 1 ≤ s.count)
    (hb : s.cfg.role = .station → l ≠ .buffering) : LinkInv (goTo l s) where
  __ := hi
  topHeld     := ht
  noBuffering := hb
  pendingSend := by simp [hp]
  waiting     := by simpa [Decidable.imp_iff_not_or] using ha

theorem setTimer_keeps_linkInv {t : Nat} (hp : s.txPending = false) : LinkInv (setTimer t s) where
  __ := hi
  settleTime := by simp [hp]

theorem dropResponse_keeps_linkInv : LinkInv (dropResponse s) where
  __ := hi
  pendingSend := by simp
  settleTime  := by simp

theorem closeWindow_keeps_linkInv {now : Nat} (hr : s.cfg.role = .remote)
    (ha : s.associated = true) : LinkInv (closeWindow now s) where
  config      := by simpa using hi.config
  associated  := by simpa using hi.associated
  countLe     := by simpa using Nat.le_add_right_of_le hi.countLe
  holdRemote  := by simpa using hi.holdRemote
  holdStation := by simp [hr]
  topHeld     := by simp
  noBuffering := by simp [hr]
  pendingSend := by simp [hi.txPending_eq_false (.inl hr)]
  settleTime  := by simp [hi.txPending_eq_false (.inl hr)]
  waiting     := by simp [ha]
  startTimes  := by simpa using hi.startTimes
  durations   := by simpa using hi.durations

theorem beginResponse_keeps_linkInv {now : Nat} (hr : s.cfg.role = .station)
    (ha : s.associated = true) : LinkInv (beginResponse now s) where
  __ := hi
  topHeld     := by simp [hr]
  noBuffering := by simp
  pendingSend := by simp [hr]
  settleTime  := by simp; omega
  waiting     := by simp [ha]

theorem pushHold_keeps_linkInv {w : Word} (hr : s.cfg.role = .remote) : LinkInv (pushHold w s) := by
  by_cases hk : s.count < s.cfg.k
  · rw [pushHold_of_room hk]
    exact { hi with
      countLe     := hk
      holdRemote  := by simpa using hi.holdRemote
      holdStation := by simp [hr]
      topHeld     := by simp }
  · rw [pushHold_of_full (Nat.not_lt.mp hk)]
    exact hi

/-! ### A step -/

theorem transition_keeps_linkInv {now : Nat} {p : State × Bool} (h : TransitionCase now s p) :
    LinkInv p.1 := by
  cases h with
  | remoteAssociateWaits | remoteSendWaits | remoteReceiveWaits | stationAssociateWaits
  | stationListens | stationSendWaits => exact hi
  | remoteRearms | stationRearms => exact linkInv_of_linkRegs_eq (by simp) hi
  | remoteAssociated hr _ ha =>
    exact goTo_keeps_linkInv hi (hi.txPending_eq_false (.inl hr)) (.inl ha) (by simp) (by simp [hr])
  | remoteInitWaits _ hl _ | stationInitWaits _ hl _ =>
    exact goTo_keeps_linkInv hi (hi.txPending_eq_false (.inr (by simp [hl]))) (by simp) (by simp)
      (by simp)
  | remoteSends hr hl hc =>
    have hp := hi.txPending_eq_false (.inl hr)
    have ha := hi.associated_eq_true (by simp [hl]) (by simp [hl])
    exact goTo_keeps_linkInv (setTimer_keeps_linkInv (setTimer_keeps_linkInv hi hp) hp) hp (.inl ha)
      (fun _ _ => hc) (by simp)
  | remoteHoldEmpty hr _ _ => exact setTimer_keeps_linkInv hi (hi.txPending_eq_false (.inl hr))
  | remoteSent r hr hl _ _ =>
    have hreport : LinkInv (reportTx r (drainTx s)) := linkInv_of_linkRegs_eq (by simp) hi
    have hp : (reportTx r (drainTx s)).txPending = false := hreport.txPending_eq_false (by simp [hr])
    have ha := hreport.associated_eq_true (by simp [hl]) (by simp [hl])
    exact goTo_keeps_linkInv (setTimer_keeps_linkInv hreport hp) hp (.inl ha)
      (fun _ _ => by simpa using hi.topHeld hr (.inl hl)) (by simp)
  | remoteSendExpires hr hl _ _ =>
    exact goTo_keeps_linkInv hi (hi.txPending_eq_false (.inl hr))
      (.inl (hi.associated_eq_true (by simp [hl]) (by simp [hl])))
      (fun _ _ => hi.topHeld hr (.inl hl)) (by simp)
  | remoteResponds _ _ hr hl _ _ _ | remoteErrorExpires _ _ hr hl _ _ _ _ _
  | remoteReceiveExpires _ hr hl _ _ _ =>
    have ha := hi.associated_eq_true (by simp [hl]) (by simp [hl])
    exact closeWindow_keeps_linkInv (linkInv_of_linkRegs_eq (by simp) hi) (by simpa using hr)
      (by simpa using ha)
  | stationAssociated hr hl ha =>
    have hs : s.ls ≠ .send := by rcases hl with hl | hl <;> simp [hl]
    exact goTo_keeps_linkInv hi (hi.txPending_eq_false (.inr hs)) (.inl ha) (by simp [hr]) (by simp)
  | stationDispatches w t hr hl _ _ hd =>
    have hregs : linkRegs t = linkRegs s := by simpa using runDispatch_linkRegs hd
    obtain ⟨hcfg, hassoc⟩ := cfg_associated_of_linkRegs_eq hregs
    have ha := hi.associated_eq_true (by simp [hl]) (by simp [hl])
    exact beginResponse_keeps_linkInv (linkInv_of_linkRegs_eq hregs hi) (hcfg ▸ hr) (hassoc.trans ha)
  | stationSent r hr hl hp _ _ =>
    have ha := hi.associated_eq_true (by simp [hl]) (by simp [hl])
    exact goTo_keeps_linkInv (linkInv_of_linkRegs_eq (by simp) hi) (by simpa using hp)
      (.inl (by simpa using ha)) (by simp [hr]) (by simp)
  | stationSendExpires hr hl _ _ =>
    exact goTo_keeps_linkInv (dropResponse_keeps_linkInv hi) rfl
      (.inl (hi.associated_eq_true (by simp [hl]) (by simp [hl]))) (by simp [hr]) (by simp)

theorem actionPhase_keeps_linkInv (now : Nat) (old : LinkState) (rearm : Bool) :
    LinkInv (actionPhase now old rearm s) := by
  rcases actionPhase_cases now old rearm s with
    ⟨_, _, _, w, _, he⟩ | ⟨_, _, he⟩ | ⟨_, _, _, _, he⟩ | ⟨_, _, _, he⟩ <;> rw [he]
  · exact linkInv_of_linkRegs_eq (submit_linkRegs s w) hi
  · exact linkInv_of_linkRegs_eq (armReceiver_linkRegs s) hi
  · exact dropResponse_keeps_linkInv (linkInv_of_linkRegs_eq (submit_linkRegs s s.resp) hi)
  · exact hi

theorem step_keeps_linkInv {t : State} (h : step s = .next t) : LinkInv t := by
  have hstart : ∀ rest, LinkInv (clearTrace (setInputs rest s)) := fun rest =>
    linkInv_of_linkRegs_eq (by simp) hi
  cases step_cases h with
  | idle | txDone | rxDone => exact linkInv_of_linkRegs_eq (by simp) hi
  | push w rest _ hr => exact pushHold_keeps_linkInv (hstart rest) hr
  | tick now rest p _ _ hp =>
    have hact : LinkInv (actionPhase now s.ls p.2 p.1) :=
      actionPhase_keeps_linkInv (transition_keeps_linkInv (hstart rest) hp) now s.ls p.2
    exact linkInv_of_linkRegs_eq (stamp_linkRegs _ now) hact

end

/-- Settles O39: each case of a step keeps the invariant, the transition and the action phase apart. -/
theorem everyStepKeepsTheInvariant : Obligations.EveryStepKeepsTheInvariant :=
  fun _ _ hi h => step_keeps_linkInv hi h

end Sys2Proof.Machine
end

section
/-! SUPPORT. Who writes the memory of a node (20_memory.md): the frame on the air, the two event cells, the
outbound hold, and the registers that are the Station's and its dispatcher's alone. -/

namespace Sys2Proof.Machine

/-! ### Frames -/

/-- Settles O9: an octet is a slice of the word, so both sides are the same quotient and remainder. -/
theorem theFirstOctetCarriesTheOpcode : Obligations.TheFirstOctetCarriesTheOpcode := by
  intro w
  simp only [opcodeOf, payloadOf, toFrame, bits, BitVec.extractLsb'_toNat,
    Nat.shiftRight_eq_div_pow]
  omega

/-! ### Event cells -/

/-- Settles O36: a step on a delivery is that delivery, from an empty trace. -/
theorem deliveriesWriteOneEventCell : Obligations.DeliveriesWriteOneEventCell :=
  fun _ rest => ⟨fun r hin => step_eq_next.mpr (.inr ⟨.txDone r, rest, hin, rfl⟩),
    fun q hin => step_eq_next.mpr (.inr ⟨.rxDone q, rest, hin, rfl⟩)⟩

/-! ### The outbound hold -/

theorem hold_count_of_linkRegs_eq {s t : State} (h : linkRegs t = linkRegs s) :
    t.hold = s.hold ∧ t.count = s.count :=
  ⟨congrArg LinkRegs.hold h, congrArg LinkRegs.count h⟩

/-- A push with room writes the entry above the newest word and leaves the others. -/
theorem heldWords_pushHold_of_room {s : State} {w : Word} (hroom : s.count < s.cfg.k)
    (hlen : s.hold.length = s.cfg.k) :
    heldWords (pushHold w s) = heldWords s ++ [w] := by
  have hcount : s.count < s.hold.length := hlen ▸ hroom
  simp [pushHold_of_room hroom, heldWords, List.take_add_one, List.take_set_of_le, hcount]

theorem heldWords_pushHold_of_full {s : State} {w : Word} (hfull : s.cfg.k ≤ s.count) :
    heldWords (pushHold w s) = heldWords s := by
  rw [pushHold_of_full hfull]

/-- No transition writes a hold entry, and none but the end of a Remote's receive window moves the
occupancy (43_link_remote.md R207, R209). -/
theorem transition_hold_count {now : Nat} {s : State} {p : State × Bool}
    (h : TransitionCase now s p) : p.1.hold = s.hold ∧
      (p.1.count = s.count ∨ s.cfg.role = .remote ∧ s.ls = .receive ∧ p.1.ls = .buffering ∧
        p.1.count = s.count - 1) := by
  cases h with
  | remoteResponds _ _ hr hl _ _ _ | remoteErrorExpires _ _ hr hl _ _ _ _ _
  | remoteReceiveExpires _ hr hl _ _ _ => simp [hr, hl]
  | stationDispatches w t _ _ _ _ hd =>
    have hregs : linkRegs t = linkRegs s := by simpa using runDispatch_linkRegs hd
    simp [hold_count_of_linkRegs_eq hregs]
  | _ => simp

theorem actionPhase_ls_hold_count (now : Nat) (old : LinkState) (rearm : Bool) (s : State) :
    (actionPhase now old rearm s).ls = s.ls ∧ (actionPhase now old rearm s).hold = s.hold ∧
      (actionPhase now old rearm s).count = s.count := by
  rcases actionPhase_cases now old rearm s with
    ⟨_, _, _, _, _, he⟩ | ⟨_, _, he⟩ | ⟨_, _, _, _, he⟩ | ⟨_, _, _, he⟩ <;> simp [he]

/-- Settles O44: of the cases of a step only a push writes a hold entry, and only the end of a receive
window takes one away. -/
theorem holdChangesOnlyByPushAndWindowEnd : Obligations.HoldChangesOnlyByPushAndWindowEnd := by
  intro s t hi h
  cases step_cases h with
  | idle | txDone | rxDone => exact .inl (heldWords_congr (by simp) (by simp))
  | push w rest hin hr =>
    by_cases hroom : s.count < s.cfg.k
    · exact .inr (.inl ⟨w, rest, hin, hroom, heldWords_pushHold_of_room hroom (hi.holdRemote hr)⟩)
    · exact .inl (heldWords_pushHold_of_full (Nat.not_lt.mp hroom))
  | tick now rest p hin _ hp =>
    obtain ⟨hls, hhold, hcount⟩ := actionPhase_ls_hold_count now s.ls p.2 p.1
    obtain ⟨hhold', hcount' | ⟨hr, hl, hl', hcount'⟩⟩ := transition_hold_count hp
    · exact .inl (heldWords_congr (hcount.trans hcount') (hhold.trans hhold'))
    · have hlen : s.count ≤ s.hold.length := hi.holdRemote hr ▸ hi.countLe
      refine .inr (.inr ⟨now, rest, hin, hr, hl, hls.trans hl', ?_⟩)
      simpa [heldWords, hhold, hhold', hcount, hcount'] using heldWords_pop hlen

/-! ### The registers of one role -/

/-- What only a Station and its dispatcher write: 10_state.md R28 and R29, 45_dispatcher_contract.md R261
and R277, the free values read, and the collaborator calls. -/
structure StationRegs where
  resp             : Word
  txPending        : Bool
  settleAt         : Nat
  staging          : Staging
  pendingSyncError : Bool
  rebootRequested  : Bool
  cmdReg           : Word
  freeIndex        : Nat
  calls            : List Call

/-- The Station's registers in `s`. -/
def stationRegs (s : State) : StationRegs where
  resp             := s.resp
  txPending        := s.txPending
  settleAt         := s.settleAt
  staging          := s.staging
  pendingSyncError := s.pendingSyncError
  rebootRequested  := s.rebootRequested
  cmdReg           := s.cmdReg
  freeIndex        := s.freeIndex
  calls            := s.calls

theorem remote_transition_stationRegs {now : Nat} {s : State} {p : State × Bool}
    (hr : s.cfg.role = .remote) (h : TransitionCase now s p) :
    stationRegs p.1 = stationRegs s := by
  cases h with
  | stationAssociated hs | stationInitWaits hs | stationAssociateWaits hs
  | stationDispatches _ _ hs | stationRearms _ hs | stationListens hs | stationSent _ hs
  | stationSendExpires hs | stationSendWaits hs => simp [hs] at hr
  | _ => simp [stationRegs]

theorem remote_actionPhase_stationRegs (now : Nat) (old : LinkState) (rearm : Bool) {s : State}
    (hr : s.cfg.role = .remote) :
    stationRegs (actionPhase now old rearm s) = stationRegs s := by
  rcases actionPhase_cases now old rearm s with
    ⟨_, _, _, w, _, he⟩ | ⟨_, _, he⟩ | ⟨hs, _⟩ | ⟨_, _, _, he⟩
  · rw [he]; rfl
  · rw [he]; rfl
  · simp [hs] at hr
  · rw [he]

/-- A Remote's step writes none of the Station's registers; its record of calls is empty. -/
theorem remote_step_stationRegs {s t : State} (hr : s.cfg.role = .remote) (h : step s = .next t) :
    stationRegs t = stationRegs (clearTrace s) := by
  cases step_cases h with
  | idle | txDone | rxDone => rfl
  | push => simp [stationRegs]
  | tick now rest p _ _ hp =>
    have hrole : p.1.cfg.role = .remote := by simpa [transition_cfg_associated hp] using hr
    calc stationRegs (stamp now (actionPhase now s.ls p.2 p.1))
      _ = stationRegs (actionPhase now s.ls p.2 p.1) := rfl
      _ = stationRegs p.1 := remote_actionPhase_stationRegs now s.ls p.2 hrole
      _ = stationRegs (clearTrace (setInputs rest s)) := remote_transition_stationRegs hr hp
      _ = stationRegs (clearTrace s) := rfl

theorem station_step_hold_count {s t : State} (hs : s.cfg.role = .station)
    (h : step s = .next t) : t.hold = s.hold ∧ t.count = s.count := by
  cases step_cases h with
  | idle | txDone | rxDone => simp
  | push _ _ _ hr => simp [hs] at hr
  | tick now rest p _ _ hp =>
    obtain ⟨-, hhold, hcount⟩ := actionPhase_ls_hold_count now s.ls p.2 p.1
    obtain ⟨hhold', hcount' | ⟨hr, -⟩⟩ := transition_hold_count hp
    · exact ⟨hhold.trans hhold', hcount.trans hcount'⟩
    · exact absurd (hs.symm.trans hr) (by decide)

/-- Settles O49, role by role from the frames of a step. -/
theorem eachRoleWritesOnlyItsRegisters : Obligations.EachRoleWritesOnlyItsRegisters :=
  fun _ _ h => ⟨fun hr => by simpa [stationRegs] using remote_step_stationRegs hr h,
    fun hs => station_step_hold_count hs h⟩

end Sys2Proof.Machine
end

section
/-! SUPPORT. The encoding of a command word (30_encoding.md): which opcodes are known, and which
payload bits a layout reads. -/

namespace Sys2Proof

/-! ### The opcode multiplexer -/

theorem OpName.mem_all (n : OpName) : n ∈ OpName.all := by
  cases n <;> decide

theorem name?_isSome_iff {m : OpcodeMap} {op : BitVec 5} :
    (m.name? op).isSome ↔ ∃ n, op = m.get n := by
  simp only [OpcodeMap.name?, List.find?_isSome, OpName.mem_all, true_and, beq_iff_eq,
    eq_comm (a := op)]

theorem name?_get {m : OpcodeMap} (hm : m.injective = true) (n : OpName) :
    m.name? (m.get n) = some n := by
  obtain ⟨k, hk⟩ := Option.isSome_iff_exists.mp (name?_isSome_iff.mpr ⟨n, rfl⟩)
  rw [hk, injective_iff.mp hm k n (get_of_name? hk)]

/-- The default `OPC` numbers the twelve names from 1 to 12 (30_encoding.md R72). -/
theorem exists_eq_table_get_iff (op : BitVec 5) :
    (∃ n, op = OpcodeMap.table.get n) ↔ 1 ≤ op.toNat ∧ op.toNat ≤ 12 := by
  constructor
  · rintro ⟨n, rfl⟩
    cases n <;> decide
  · have hnamed : ∀ op : BitVec 5, 1 ≤ op.toNat ∧ op.toNat ≤ 12 →
        ∃ n ∈ OpName.all, op = OpcodeMap.table.get n := by decide
    intro h
    obtain ⟨n, -, hn⟩ := hnamed op h
    exact ⟨n, hn⟩

theorem table_name?_eq_none_iff (op : BitVec 5) :
    OpcodeMap.table.name? op = none ↔ op = 0 ∨ 13 ≤ op.toNat := by
  rw [← Option.not_isSome_iff_eq_none, name?_isSome_iff, exists_eq_table_get_iff]
  bv_omega

/-- Settles O6: an opcode is known when the search over the twelve names finds one. -/
theorem knownOpcodesAreTheValuesOfOPC : Obligations.KnownOpcodesAreTheValuesOfOPC :=
  ⟨fun _ _ => name?_isSome_iff, fun _ n hm => name?_get hm n, table_name?_eq_none_iff⟩

/-- Settles O10, by running the decoder on each word. -/
theorem writtenWordsDecode : Obligations.WrittenWordsDecode := by
  refine ⟨?_, ?_, ?_, ?_, ?_, ?_, ?_⟩ <;> rfl

/-! ### What a slicer reads -/

theorem slice_of_name? {m : OpcodeMap} {w : Word} {n : OpName}
    (h : m.name? (opcodeOf w) = some n) : slice m w = .known (slicePayload n (payloadOf w)) := by
  simp [slice, h]

theorem slice_of_name?_eq_none {m : OpcodeMap} {w : Word} (h : m.name? (opcodeOf w) = none) :
    slice m w = .unknown (opcodeOf w) (payloadOf w) := by
  simp [slice, h]

@[simp] theorem slicePayload_opName (n : OpName) (p : BitVec 27) :
    (slicePayload n p).opName = n := by
  cases n <;> rfl

@[simp] theorem slicePayload_fields (n : OpName) (p : BitVec 27) :
    (slicePayload n p).fields = sliceFields n p := by
  cases n <;> rfl

/-- A slicer is the generic one over its layout (40_codec.md R115). -/
theorem ofFields_sliceFields (n : OpName) (p : BitVec 27) :
    Instr.ofFields n (sliceFields n p) = slicePayload n p := by
  cases n <;> rfl

theorem slicePayload_eq_iff {n : OpName} {p q : BitVec 27} :
    slicePayload n p = slicePayload n q ↔ sliceFields n p = sliceFields n q := by
  constructor <;> intro h
  · simpa using congrArg Instr.fields h
  · rw [← ofFields_sliceFields, h, ofFields_sliceFields]

/-- Two words slice alike when they have one opcode and the fields of its layout agree. -/
theorem slice_eq_slice_iff {m : OpcodeMap} {w v : Word} {n : OpName}
    (hw : m.name? (opcodeOf w) = some n) :
    slice m w = slice m v ↔ opcodeOf w = opcodeOf v ∧
      sliceFields n (payloadOf w) = sliceFields n (payloadOf v) := by
  rw [slice_of_name? hw]
  constructor
  · intro h
    cases hv : m.name? (opcodeOf v) with
    | none => simp [slice_of_name?_eq_none hv] at h
    | some k =>
      rw [slice_of_name? hv, Command.known.injEq] at h
      obtain rfl : n = k := by simpa using congrArg Instr.opName h
      exact ⟨(get_of_name? hw).symm.trans (get_of_name? hv), slicePayload_eq_iff.mp h⟩
  · rintro ⟨hop, hfields⟩
    rw [slice_of_name? (hop ▸ hw), slicePayload_eq_iff.mpr hfields]

/-! ### The bits of a layout -/

/-- The bits of a field `v[hi:lo]` (00_scope.md R11). -/
theorem testBit_bits {k : Nat} (v : BitVec k) (hi lo j : Nat) :
    (bits v hi lo).testBit j = (decide (j < hi + 1 - lo) && v.getLsbD (lo + j)) := by
  simp [bits, Nat.testBit_mod_two_pow, Nat.testBit_shiftRight, BitVec.testBit_toNat]

theorem bits_eq_iff {k : Nat} {p q : BitVec k} {hi lo : Nat} :
    bits p hi lo = bits q hi lo ↔ ∀ i, lo ≤ i → i ≤ hi → p.getLsbD i = q.getLsbD i := by
  constructor
  · intro h i hlo hhi
    have hbit := congrArg (·.testBit (i - lo)) h
    have hlt : i - lo < hi + 1 - lo := by omega
    simpa [testBit_bits, hlt, Nat.add_sub_cancel' hlo] using hbit
  · intro h
    refine Nat.eq_of_testBit_eq fun j => ?_
    rw [testBit_bits, testBit_bits]
    by_cases hj : j < hi + 1 - lo
    · rw [h (lo + j) (by omega) (by omega)]
    · simp [hj]

theorem layout_within_payload {n : OpName} : ∀ f ∈ layout n, f.1 < 27 := by
  cases n <;> decide

/-- The loop of `usedMask` collects the bits of the fields it has passed. -/
theorem getLsbD_foldl_place_mask {i : Nat} (hi : i < 32) (fs : List (Nat × Nat)) (w : Word) :
    (fs.foldl (fun w f => w ||| place (mask (f.1 + 1 - f.2)) (f.1 + 1 - f.2) f.2) w).getLsbD i =
        true ↔ w.getLsbD i = true ∨ ∃ f ∈ fs, f.2 ≤ i ∧ i ≤ f.1 := by
  induction fs generalizing w with
  | nil => simp
  | cons f fs ih =>
    have hplace : (place (mask (f.1 + 1 - f.2)) (f.1 + 1 - f.2) f.2).getLsbD i = true ↔
        f.2 ≤ i ∧ i ≤ f.1 := by
      simp only [getLsbD_place, mask, Nat.testBit_two_pow_sub_one, Bool.and_eq_true,
        Bool.not_eq_true', decide_eq_true_eq, decide_eq_false_iff_not]
      omega
    rw [List.foldl_cons, ih, BitVec.getLsbD_or, Bool.or_eq_true, hplace, List.exists_mem_cons_iff,
      or_assoc]

theorem getLsbD_usedMask {n : OpName} {i : Nat} (hi : i < 32) :
    (usedMask n).getLsbD i = true ↔ ∃ f ∈ layout n, f.2 ≤ i ∧ i ≤ f.1 := by
  simpa [usedMask] using getLsbD_foldl_place_mask hi (layout n) 0

theorem getLsbD_payloadOf_usedMask {n : OpName} {i : Nat} :
    (payloadOf (usedMask n)).getLsbD i = true ↔ ∃ f ∈ layout n, f.2 ≤ i ∧ i ≤ f.1 := by
  by_cases hi : i < 27
  · have h32 : i < 32 := by omega
    simpa [payloadOf, hi] using getLsbD_usedMask h32
  · have hout : ¬ ∃ f ∈ layout n, f.2 ≤ i ∧ i ≤ f.1 := by
      rintro ⟨f, hf, -, hle⟩
      have := layout_within_payload f hf
      omega
    simpa [payloadOf, hi] using hout

/-! ### Clearing the unused bits of a word -/

theorem word_eq_iff {a b : Word} : a = b ↔ opcodeOf a = opcodeOf b ∧ payloadOf a = payloadOf b :=
  ⟨fun h => ⟨congrArg opcodeOf h, congrArg payloadOf h⟩, fun ⟨ho, hp⟩ => word_ext ho hp⟩

theorem opcodeOf_and (a b : Word) : opcodeOf (a &&& b) = opcodeOf a &&& opcodeOf b :=
  BitVec.extractLsb'_and

theorem payloadOf_and (a b : Word) : payloadOf (a &&& b) = payloadOf a &&& payloadOf b :=
  BitVec.extractLsb'_and

theorem opcodeOf_not (a : Word) : opcodeOf (~~~a) = ~~~opcodeOf a := by
  ext i hi
  have h32 : 27 + i < 32 := by omega
  simp [opcodeOf, h32]

theorem payloadOf_not (a : Word) : payloadOf (~~~a) = ~~~payloadOf a :=
  BitVec.extractLsb'_not_of_lt (by decide)

/-- No unused bit lies in the opcode (30_encoding.md R75). -/
theorem opcodeOf_unusedMask (n : OpName) : opcodeOf (unusedMask n) = 0#5 := by
  have hmask : opcodeOf (BitVec.ofNat 32 (mask 27)) = 0#5 := by decide
  rw [unusedMask, opcodeOf_and, hmask, BitVec.zero_and]

theorem payloadOf_unusedMask (n : OpName) :
    payloadOf (unusedMask n) = ~~~payloadOf (usedMask n) := by
  have hmask : payloadOf (BitVec.ofNat 32 (mask 27)) = BitVec.allOnes 27 := by decide
  rw [unusedMask, payloadOf_and, hmask, BitVec.allOnes_and, payloadOf_not]

@[simp] theorem opcodeOf_and_not_unusedMask (w : Word) (n : OpName) :
    opcodeOf (w &&& ~~~unusedMask n) = opcodeOf w := by
  rw [opcodeOf_and, opcodeOf_not, opcodeOf_unusedMask, BitVec.not_zero, BitVec.and_allOnes]

@[simp] theorem payloadOf_and_not_unusedMask (w : Word) (n : OpName) :
    payloadOf (w &&& ~~~unusedMask n) = payloadOf w &&& payloadOf (usedMask n) := by
  rw [payloadOf_and, payloadOf_not, payloadOf_unusedMask, BitVec.not_not]

/-- A layout reads exactly the payload bits of its used mask. -/
theorem and_usedMask_eq_iff {n : OpName} {p q : BitVec 27} :
    p &&& payloadOf (usedMask n) = q &&& payloadOf (usedMask n) ↔
      sliceFields n p = sliceFields n q := by
  simp only [sliceFields, List.map_inj_left, bits_eq_iff]
  constructor
  · intro h f hf i hlo hhi
    have hused := getLsbD_payloadOf_usedMask.mpr ⟨f, hf, hlo, hhi⟩
    simpa [hused] using congrArg (·.getLsbD i) h
  · intro h
    refine BitVec.eq_of_getLsbD_eq fun i _ => ?_
    rw [BitVec.getLsbD_and, BitVec.getLsbD_and]
    cases hused : (payloadOf (usedMask n)).getLsbD i with
    | false => simp
    | true =>
      obtain ⟨f, hf, hlo, hhi⟩ := getLsbD_payloadOf_usedMask.mp hused
      rw [h f hf i hlo hhi]

/-- Settles O5: the opcode and the fields of the layout are what both sides compare. -/
theorem sliceIgnoresUnusedBits : Obligations.SliceIgnoresUnusedBits := by
  intro m w v n hw
  simp [slice_eq_slice_iff hw, word_eq_iff, and_usedMask_eq_iff]

end Sys2Proof
end

section
/-! SUPPORT. The codec (40_codec.md): what the loop of `encode` puts into a payload and what a slicer
reads back, for every layout at once; the frames; and the laws of `encode_raw`, `extract`, `decode` and
`slice` that follow. -/

namespace Sys2Proof

/-! ### The loop of `encode` -/

/-- A field's value as a layout keeps it: masked to the width of the bits `f.1` down to `f.2`
(40_codec.md R112). -/
def maskField (f : Nat × Nat) (v : Nat) : Nat := v % 2 ^ (f.1 + 1 - f.2)

theorem testBit_maskField (f : Nat × Nat) (v j : Nat) :
    (maskField f v).testBit j = (decide (j < f.1 + 1 - f.2) && v.testBit j) := by
  rw [maskField, Nat.testBit_mod_two_pow]

@[simp] theorem place_mod (v n lo : Nat) : place (v % 2 ^ n) n lo = place v n lo := by
  rw [place, place, Nat.mod_mod]

@[simp] theorem packFields_cons (f : Nat × Nat) (ls : List (Nat × Nat)) (v : Nat) (vs : List Nat)
    (w : Word) : packFields (f :: ls) (v :: vs) w =
      packFields ls vs (w ||| place v (f.1 + 1 - f.2) f.2) := rfl

@[simp] theorem packFields_nil_left (vs : List Nat) (w : Word) : packFields [] vs w = w := rfl

@[simp] theorem packFields_nil_right (ls : List (Nat × Nat)) (w : Word) :
    packFields ls [] w = w := by
  cases ls <;> rfl

/-- What the word holds before the loop stays beside what the loop adds. -/
theorem packFields_or (ls : List (Nat × Nat)) (vs : List Nat) (w x : Word) :
    packFields ls vs (w ||| x) = packFields ls vs w ||| x := by
  induction ls generalizing vs w with
  | nil => rfl
  | cons f ls ih =>
    cases vs with
    | nil => rfl
    | cons v vs =>
      rw [packFields_cons, packFields_cons, ← ih, BitVec.or_assoc, BitVec.or_assoc,
        BitVec.or_comm x]

/-- The loop sets the bits of the fields it has passed, each within its own width. -/
theorem getLsbD_packFields {i : Nat} (hi : i < 32) (ls : List (Nat × Nat)) (vs : List Nat)
    (w : Word) : (packFields ls vs w).getLsbD i = true ↔ w.getLsbD i = true ∨
      ∃ e ∈ ls.zip vs, e.1.2 ≤ i ∧ i ≤ e.1.1 ∧ e.2.testBit (i - e.1.2) = true := by
  induction ls generalizing vs w with
  | nil => simp
  | cons f ls ih =>
    cases vs with
    | nil => simp
    | cons v vs =>
      have hplace : (place v (f.1 + 1 - f.2) f.2).getLsbD i = true ↔
          f.2 ≤ i ∧ i ≤ f.1 ∧ v.testBit (i - f.2) = true := by
        simp only [getLsbD_place, Bool.and_eq_true, Bool.not_eq_true', decide_eq_true_eq,
          decide_eq_false_iff_not]
        grind
      rw [packFields_cons, ih, BitVec.getLsbD_or, Bool.or_eq_true, hplace, List.zip_cons_cons,
        List.exists_mem_cons_iff, or_assoc]

theorem getLsbD_payloadOf (w : Word) {i : Nat} (hi : i < 27) :
    (payloadOf w).getLsbD i = w.getLsbD i := by
  simp [payloadOf, hi]

theorem getLsbD_payloadOf_packFields {i : Nat} (hi : i < 27) (ls : List (Nat × Nat))
    (vs : List Nat) : (payloadOf (packFields ls vs 0)).getLsbD i = true ↔
      ∃ e ∈ ls.zip vs, e.1.2 ≤ i ∧ i ≤ e.1.1 ∧ e.2.testBit (i - e.1.2) = true := by
  have h32 : i < 32 := by omega
  rw [getLsbD_payloadOf _ hi, getLsbD_packFields h32]
  simp

theorem packFields_set_mod {ls : List (Nat × Nat)} {k hi lo : Nat} (hk : ls[k]? = some (hi, lo))
    (vs : List Nat) (v : Nat) (w : Word) :
    packFields ls (vs.set k v) w = packFields ls (vs.set k (v % 2 ^ (hi + 1 - lo))) w := by
  induction ls generalizing vs k w with
  | nil => simp
  | cons f ls ih =>
    cases vs with
    | nil => simp
    | cons u vs =>
      cases k with
      | zero =>
        obtain rfl : f = (hi, lo) := by simpa using hk
        simp
      | succ k => simpa using ih (by simpa using hk) vs _

/-! ### What a slicer reads back -/

/-- The fields of a layout stand one above the other, none overlapping the next
(30_encoding.md R76 to R87). -/
theorem layout_pairwise_lt (n : OpName) : (layout n).Pairwise fun f g => f.1 < g.2 := by
  cases n <;> decide

theorem layout_index_eq_of_common_bit {n : OpName} {j k i : Nat} {f g : Nat × Nat}
    (hf : (layout n)[j]? = some f) (hg : (layout n)[k]? = some g)
    (hfi : f.2 ≤ i ∧ i ≤ f.1) (hgi : g.2 ≤ i ∧ i ≤ g.1) : j = k := by
  have hlt := List.pairwise_iff_getElem.mp (layout_pairwise_lt n)
  obtain ⟨hj, rfl⟩ := List.getElem?_eq_some_iff.mp hf
  obtain ⟨hk, rfl⟩ := List.getElem?_eq_some_iff.mp hg
  rcases lt_trichotomy j k with h | h | h
  · have := hlt j k hj hk h
    omega
  · exact h
  · have := hlt k j hk hj h
    omega

/-- The truncation law for one field (40_codec.md R112): no other field reaches its bits. -/
theorem bits_payloadOf_packFields {n : OpName} {k : Nat} {f : Nat × Nat} {v : Nat}
    {fs : List Nat} (hf : (layout n)[k]? = some f) (hv : fs[k]? = some v) :
    bits (payloadOf (packFields (layout n) fs 0)) f.1 f.2 = maskField f v := by
  have hwithin := layout_within_payload f (List.mem_of_getElem? hf)
  refine Nat.eq_of_testBit_eq fun j => ?_
  rw [testBit_bits, testBit_maskField]
  by_cases hj : j < f.1 + 1 - f.2
  · have hbit : (payloadOf (packFields (layout n) fs 0)).getLsbD (f.2 + j) = true ↔
        v.testBit j = true := by
      rw [getLsbD_payloadOf_packFields (by omega)]
      constructor
      · rintro ⟨⟨g, u⟩, he, hlo, hhi, hu⟩
        obtain ⟨l, hl⟩ := List.mem_iff_getElem?.mp he
        obtain ⟨hg, hu'⟩ := List.getElem?_zip_eq_some.mp hl
        obtain rfl := layout_index_eq_of_common_bit hg hf ⟨hlo, hhi⟩ (by omega)
        obtain rfl : g = f := by simpa [hf] using hg.symm
        obtain rfl : u = v := by simpa [hv] using hu'.symm
        simpa using hu
      · intro hu
        have he : (f, v) ∈ (layout n).zip fs :=
          List.mem_of_getElem? (List.getElem?_zip_eq_some.mpr ⟨hf, hv⟩)
        exact ⟨(f, v), he, by simp, by simp; omega, by simpa using hu⟩
    rw [Bool.eq_iff_iff.mpr hbit]
  · simp [hj]

/-- Slicing what the loop packed gives each field masked to its width (40_codec.md R112). -/
theorem sliceFields_packFields {n : OpName} {fs : List Nat} (hlen : fs.length = (layout n).length) :
    sliceFields n (payloadOf (packFields (layout n) fs 0)) =
      List.zipWith maskField (layout n) fs := by
  refine List.ext_getElem (by simp [sliceFields, hlen]) fun k hk hk' => ?_
  have hkn : k < (layout n).length := by simpa [sliceFields] using hk
  have hkf : k < fs.length := hlen ▸ hkn
  simpa [sliceFields] using
    bits_payloadOf_packFields (List.getElem?_eq_getElem hkn) (List.getElem?_eq_getElem hkf)

/-- Packing what a layout reads gives the payload with the unused bits cleared. -/
theorem payloadOf_packFields_sliceFields (n : OpName) (p : BitVec 27) :
    payloadOf (packFields (layout n) (sliceFields n p) 0) = p &&& payloadOf (usedMask n) := by
  refine BitVec.eq_of_getLsbD_eq fun i hi => Bool.eq_iff_iff.mpr ?_
  have hzip : (layout n).zip (sliceFields n p) =
      (layout n).map fun f => (f, bits p f.1 f.2) := by
    simpa [sliceFields] using List.zip_map' (f := id) (g := fun f => bits p f.1 f.2) (l := layout n)
  rw [getLsbD_payloadOf_packFields hi, BitVec.getLsbD_and, Bool.and_eq_true,
    getLsbD_payloadOf_usedMask, hzip]
  simp only [List.mem_map, exists_exists_and_eq_and, testBit_bits, Bool.and_eq_true,
    decide_eq_true_eq]
  constructor
  · rintro ⟨f, hf, hlo, hhi, -, hp⟩
    exact ⟨by simpa [Nat.add_sub_cancel' hlo] using hp, f, hf, hlo, hhi⟩
  · rintro ⟨hp, f, hf, hlo, hhi⟩
    exact ⟨f, hf, hlo, hhi, by omega, by simpa [Nat.add_sub_cancel' hlo] using hp⟩

/-- The loop sets no bit outside the layout (30_encoding.md R75). -/
theorem payloadOf_packFields_and_not_usedMask (n : OpName) (fs : List Nat) :
    payloadOf (packFields (layout n) fs 0) &&& ~~~payloadOf (usedMask n) = 0#27 := by
  refine BitVec.eq_of_getLsbD_eq fun i hi => ?_
  have hused : (payloadOf (packFields (layout n) fs 0)).getLsbD i = true →
      (payloadOf (usedMask n)).getLsbD i = true := by
    rw [getLsbD_payloadOf_packFields hi, getLsbD_payloadOf_usedMask]
    rintro ⟨e, he, hlo, hhi, -⟩
    exact ⟨e.1, (List.of_mem_zip he).1, hlo, hhi⟩
  simpa [hi] using hused

/-! ### The generic encoder -/

theorem encodeFields_eq_or (m : OpcodeMap) (n : OpName) (fs : List Nat) :
    encodeFields m n fs = packFields (layout n) fs 0 ||| opcodeBits m n := by
  rw [← packFields_or]
  simp [encodeFields]

/-- No field of a layout reaches the opcode (30_encoding.md R89). -/
theorem opcodeOf_packFields (n : OpName) (fs : List Nat) :
    opcodeOf (packFields (layout n) fs 0) = 0#5 := by
  refine BitVec.eq_of_getLsbD_eq fun i hi => ?_
  have hclear : ¬ (packFields (layout n) fs 0).getLsbD (27 + i) = true := by
    rw [getLsbD_packFields (by omega)]
    rintro (h | ⟨e, he, -, hhi, -⟩)
    · simp at h
    · have := layout_within_payload e.1 (List.of_mem_zip he).1
      omega
  simpa [opcodeOf, hi] using hclear

@[simp] theorem opcodeOf_encodeFields (m : OpcodeMap) (n : OpName) (fs : List Nat) :
    opcodeOf (encodeFields m n fs) = m.get n := by
  rw [encodeFields_eq_or, opcodeOf_or, opcodeOf_opcodeBits, opcodeOf_packFields, BitVec.zero_or]

@[simp] theorem payloadOf_encodeFields (m : OpcodeMap) (n : OpName) (fs : List Nat) :
    payloadOf (encodeFields m n fs) = payloadOf (packFields (layout n) fs 0) := by
  simp [encodeFields_eq_or]

theorem encodeFields_and_unusedMask (m : OpcodeMap) (n : OpName) (fs : List Nat) :
    encodeFields m n fs &&& unusedMask n = 0 := by
  refine word_ext ?_ ?_
  · rw [opcodeOf_and, opcodeOf_unusedMask, BitVec.and_zero]
    rfl
  · rw [payloadOf_and, payloadOf_unusedMask, payloadOf_encodeFields,
      payloadOf_packFields_and_not_usedMask]
    rfl

/-- Encoding the fields a word was read into gives the word back without its unused bits. -/
theorem encodeFields_sliceFields {m : OpcodeMap} {n : OpName} {w : Word}
    (hop : m.get n = opcodeOf w) :
    encodeFields m n (sliceFields n (payloadOf w)) = w &&& ~~~unusedMask n := by
  refine word_ext ?_ ?_
  · rw [opcodeOf_encodeFields, opcodeOf_and_not_unusedMask, hop]
  · rw [payloadOf_encodeFields, payloadOf_packFields_sliceFields, payloadOf_and_not_unusedMask]

theorem slice_encodeFields {m : OpcodeMap} (hm : m.injective = true) (n : OpName)
    (fs : List Nat) : slice m (encodeFields m n fs) =
      .known (slicePayload n (payloadOf (packFields (layout n) fs 0))) := by
  rw [slice_of_name? (n := n) (by rw [opcodeOf_encodeFields, name?_get hm]),
    payloadOf_encodeFields]

/-! ### Commands as a name and its fields -/

theorem ofFields_fields (i : Instr) : Instr.ofFields i.opName i.fields = i := by
  cases i <;> rfl

theorem length_fields (i : Instr) : i.fields.length = (layout i.opName).length := by
  cases i <;> rfl

@[simp] theorem masked_opName (i : Instr) : i.masked.opName = i.opName := by
  cases i <;> rfl

@[simp] theorem masked_fields (i : Instr) :
    i.masked.fields = List.zipWith maskField (layout i.opName) i.fields := by
  cases i <;> rfl

theorem masked_eq_ofFields (i : Instr) : i.masked =
    Instr.ofFields i.opName (List.zipWith maskField (layout i.opName) i.fields) := by
  rw [← masked_fields, ← masked_opName, ofFields_fields]

/-- The width columns of the layouts are the bounds of `Instr.wf` (30_encoding.md R88). -/
theorem wf_iff_masked_eq (i : Instr) : i.wf = true ↔ i.masked = i := by
  cases i <;> simp [Instr.wf, Instr.masked, and_assoc]

@[simp] theorem maskField_bits {k : Nat} (v : BitVec k) (f : Nat × Nat) :
    maskField f (bits v f.1 f.2) = bits v f.1 f.2 :=
  Nat.mod_mod _ _

theorem masked_slicePayload (n : OpName) (p : BitVec 27) :
    (slicePayload n p).masked = slicePayload n p := by
  rw [masked_eq_ofFields, slicePayload_opName, slicePayload_fields, sliceFields,
    List.zipWith_map_right, List.zipWith_self]
  simp only [maskField_bits]
  exact ofFields_sliceFields n p

theorem wf_slicePayload (n : OpName) (p : BitVec 27) : (slicePayload n p).wf = true :=
  (wf_iff_masked_eq _).mpr (masked_slicePayload n p)

/-- The packer of each name is the loop over its layout (40_codec.md R116 to R127). -/
theorem encodeFields_fields (m : OpcodeMap) (i : Instr) :
    encodeFields m i.opName i.fields = encode m i := by
  cases i <;> simp only [encodeFields, Instr.opName, Instr.fields, layout, packFields_cons,
    packFields_or] <;> rfl

/-- Settles O4: the packers are the loop run out, and the loop sets no bit outside the layout. -/
theorem genericCodecIsEachPackerAndSlicer : Obligations.GenericCodecIsEachPackerAndSlicer :=
  ⟨fun m i => ⟨encodeFields_fields m i,
    encodeFields_fields m i ▸ encodeFields_and_unusedMask m i.opName i.fields⟩,
    ofFields_sliceFields⟩

/-- Settles O3: one field is packed and read back apart from all others. -/
theorem overWideFieldsAreTruncated : Obligations.OverWideFieldsAreTruncated := by
  intro m n fs k v hi lo hm hk hlen
  have htrunc : encodeFields m n (fs.set k v) =
      encodeFields m n (fs.set k (v % 2 ^ (hi + 1 - lo))) := packFields_set_mod hk fs v _
  have hkn : k < (layout n).length := (List.getElem?_eq_some_iff.mp hk).1
  have hv : (fs.set k v)[k]? = some v := List.getElem?_set_self (hlen ▸ hkn)
  refine ⟨htrunc, _, slice_encodeFields hm n _, slicePayload_opName _ _, ?_,
    htrunc ▸ slice_encodeFields hm n _⟩
  rw [slicePayload_fields, sliceFields, List.getElem?_map, hk, Option.map_some,
    bits_payloadOf_packFields hk hv]
  rfl

/-! ### encode, decode and slice -/

@[simp] theorem opcodeOf_encode (m : OpcodeMap) (i : Instr) :
    opcodeOf (encode m i) = m.get i.opName := by
  rw [← encodeFields_fields, opcodeOf_encodeFields]

@[simp] theorem payloadOf_encode (m : OpcodeMap) (i : Instr) :
    payloadOf (encode m i) = payloadOf (packFields (layout i.opName) i.fields 0) := by
  rw [← encodeFields_fields, payloadOf_encodeFields]

theorem slice_encode {m : OpcodeMap} (hm : m.injective = true) (i : Instr) :
    slice m (encode m i) = .known i.masked := by
  rw [← encodeFields_fields, slice_encodeFields hm, ← ofFields_sliceFields,
    sliceFields_packFields (length_fields i), masked_eq_ofFields]

/-- A word that slices to a command carries its name's opcode and the payload its slicer reads. -/
theorem slice_eq_known {m : OpcodeMap} {w : Word} {i : Instr} (h : slice m w = .known i) :
    m.get i.opName = opcodeOf w ∧ i = slicePayload i.opName (payloadOf w) := by
  cases hn : m.name? (opcodeOf w) with
  | none => simp [slice_of_name?_eq_none hn] at h
  | some n =>
    rw [slice_of_name? hn, Command.known.injEq] at h
    subst h
    simpa using get_of_name? hn

theorem encode_of_slice_eq_known {m : OpcodeMap} {w : Word} {i : Instr}
    (h : slice m w = .known i) : encode m i = w &&& ~~~unusedMask i.opName := by
  obtain ⟨hop, hi⟩ := slice_eq_known h
  have hfields : i.fields = sliceFields i.opName (payloadOf w) := by
    rw [← slicePayload_fields, ← hi]
  rw [← encodeFields_fields, hfields, encodeFields_sliceFields hop]

theorem encodeRaw_eq_place (op payload : Nat) :
    encodeRaw op payload = place op 5 27 ||| place payload 27 0 := by
  simp [encodeRaw, place]

theorem decode_encodeRaw (op payload : Nat) :
    decode (encodeRaw op payload) = (BitVec.ofNat 5 op, BitVec.ofNat 27 payload) := by
  have hop : opcodeOf (place payload 27 0) = 0#5 := opcodeOf_place (by decide)
  rw [encodeRaw_eq_place, decode, opcodeOf_or, payloadOf_or, hop, BitVec.or_zero, Prod.mk.injEq]
  constructor
  · refine BitVec.eq_of_getLsbD_eq fun i hi => ?_
    have h32 : 27 + i < 32 := by omega
    simp only [opcodeOf, BitVec.getLsbD_extractLsb', getLsbD_place, BitVec.getLsbD_ofNat]
    simp [hi, h32]
  · refine BitVec.eq_of_getLsbD_eq fun i hi => ?_
    have h32 : i < 32 := by omega
    simp only [BitVec.getLsbD_or, getLsbD_payloadOf _ hi, getLsbD_place, BitVec.getLsbD_ofNat]
    simp [hi, h32]

theorem encodeRaw_decode (w : Word) : encodeRaw (decode w).1.toNat (decode w).2.toNat = w := by
  have h := decode_encodeRaw (decode w).1.toNat (decode w).2.toNat
  rw [BitVec.ofNat_toNat, BitVec.ofNat_toNat, BitVec.setWidth_eq, BitVec.setWidth_eq] at h
  exact word_ext (congrArg Prod.fst h) (congrArg Prod.snd h)

/-- Settles O1, law by law. -/
theorem encodeDecodeSliceRoundTrip : Obligations.EncodeDecodeSliceRoundTrip :=
  ⟨fun m i hm => ⟨by simp [decode], slice_encode hm i⟩,
    fun _ _ _ h => encode_of_slice_eq_known h, encodeRaw_decode⟩

/-- Settles O7: an injective `OPC` tells the opcodes of two names apart. -/
theorem extractGivesThePayloadOnlyOnAMatch : Obligations.ExtractGivesThePayloadOnlyOnAMatch := by
  intro m i n hm
  by_cases hn : n = i.opName
  · subst hn
    simp [extract]
  · have hop : m.get i.opName ≠ m.get n := fun h => hn (injective_iff.mp hm _ _ h).symm
    simp [extract, hop, hn]

/-! ### Frames -/

/-- The octets of a frame in their places of the word, the last one lowest (20_memory.md R53). -/
theorem getLsbD_fromFrame (f : Frame) (i : Nat) : (fromFrame f).getLsbD i =
    if i < 8 then f.o3.getLsbD i
    else if i < 16 then f.o2.getLsbD (i - 8)
    else if i < 24 then f.o1.getLsbD (i - 16)
    else f.o0.getLsbD (i - 24) := by
  simp only [fromFrame, BitVec.getLsbD_or, BitVec.getLsbD_shiftLeft, BitVec.getLsbD_setWidth]
  grind

@[simp] theorem toFrame_fromFrame (f : Frame) : toFrame (fromFrame f) = f := by
  obtain ⟨o0, o1, o2, o3⟩ := f
  rw [toFrame, Frame.mk.injEq]
  refine ⟨?_, ?_, ?_, ?_⟩
  all_goals
    refine BitVec.eq_of_getLsbD_eq fun i hi => ?_
    rw [BitVec.getLsbD_extractLsb', getLsbD_fromFrame]
    grind

@[simp] theorem fromFrame_toFrame (w : Word) : fromFrame (toFrame w) = w := by
  refine BitVec.eq_of_getLsbD_eq fun i hi => ?_
  simp only [getLsbD_fromFrame, toFrame, BitVec.getLsbD_extractLsb']
  grind

theorem toFrame_inj {a b : Word} : toFrame a = toFrame b ↔ a = b :=
  (Function.LeftInverse.injective fromFrame_toFrame).eq_iff

/-- Settles O8: the two directions of a frame are inverse, so equal frames are equal words. -/
theorem framesMatchExactlyWhenWordsAreEqual : Obligations.FramesMatchExactlyWhenWordsAreEqual :=
  ⟨fun _ _ => toFrame_inj, toFrame_fromFrame, fromFrame_toFrame,
    fun c r s => by simp only [Machine.reportMismatch_out, toFrame_inj]⟩

theorem decodeOctets_eq_ok_iff {m : OpcodeMap} {f : Frame} {i : Instr} :
    decodeOctets m f.octets = .ok i ↔ slice m (fromFrame f) = .known i := by
  simp only [decodeOctets, Frame.octets]
  cases slice m (fromFrame f) <;> simp

/-- Settles O2: a well-formed command is its own masking, and a slicer yields nothing else. -/
theorem wellFormedCommandsSurviveTheWire : Obligations.WellFormedCommandsSurviveTheWire := by
  intro m hm
  constructor
  · intro i hwf
    rw [decodeOctets_eq_ok_iff, fromFrame_toFrame, slice_encode hm, (wf_iff_masked_eq i).mp hwf]
  · intro f i h
    have hslice := decodeOctets_eq_ok_iff.mp h
    obtain ⟨-, hi⟩ := slice_eq_known hslice
    exact ⟨hi ▸ wf_slicePayload _ _, encode_of_slice_eq_known hslice⟩

end Sys2Proof
end

section
/-! SUPPORT. The operations of the outbound hold (41_outbound_hold.md) as operations of a stack of words, and
what a run of them keeps. -/

namespace Sys2Proof.Machine

variable {s : State}

/-! ### One operation -/

@[simp] theorem pushHold_hold_length (w : Word) (s : State) :
    (pushHold w s).hold.length = s.hold.length := by
  unfold pushHold; split <;> simp

theorem pushHold_count_le (w : Word) (h : s.count ≤ s.cfg.k) : (pushHold w s).count ≤ s.cfg.k := by
  by_cases hroom : s.count < s.cfg.k
  · rw [pushHold_of_room hroom]
    exact hroom
  · rwa [pushHold_of_full (Nat.not_lt.mp hroom)]

/-- Settles O11: a push with room takes the entry at `count`, and a full hold has none to take. -/
theorem pushAppendsOrDropsSilently : Obligations.PushAppendsOrDropsSilently :=
  ⟨fun _ _ hfull => pushHold_of_full hfull.ge,
    fun _ _ hroom hlen => ⟨heldWords_pushHold_of_room hroom hlen,
      by rw [pushHold_of_room hroom]; rfl, pushHold_of_room hroom⟩⟩

theorem peekTop_eq_getLast? (h : s.count ≤ s.hold.length) :
    peekTop s = (heldWords s).getLast? := by
  by_cases hc : s.count = 0
  · rw [peekTop_eq_none.mpr hc, heldWords, hc, List.take_zero, List.getLast?_nil]
  · have htop : s.count - 1 < s.hold.length := by omega
    simp [peekTop, holdRead, heldWords, List.getLast?_take, hc, htop]

theorem heldWords_popTop (h : s.count ≤ s.hold.length) :
    heldWords (popTop s) = (heldWords s).dropLast := by
  simpa [heldWords] using heldWords_pop h

/-- Settles O12: the entries below `count` are a list whose last element is the top. -/
theorem peekAndPopWorkOnTheNewestWord : Obligations.PeekAndPopWorkOnTheNewestWord :=
  fun s h => ⟨peekTop_eq_getLast? h, heldWords_popTop h, popTop_eq s,
    fun hempty => if_neg (by simp [hempty])⟩

/-! ### A run of operations -/

@[simp] theorem holdOp_apply_cfg (o : HoldOp) (s : State) : (o.apply s).cfg = s.cfg := by
  cases o <;> simp [HoldOp.apply]

theorem holdOp_apply_count_le (o : HoldOp) (h : s.count ≤ s.cfg.k) :
    (o.apply s).count ≤ s.cfg.k := by
  cases o with
  | push w => exact pushHold_count_le w h
  | peek => exact h
  | pop => exact (popTop_count s).trans_le (by omega)

theorem runHold_count_le (os : List HoldOp) (h : s.count ≤ s.cfg.k) :
    (runHold os s).count ≤ (runHold os s).cfg.k := by
  induction os generalizing s with
  | nil => exact h
  | cons o os ih => exact ih (by simpa using holdOp_apply_count_le o h)

theorem runHold_push_of_full (ws : List Word) (h : s.cfg.k ≤ s.count) :
    runHold (ws.map .push) s = s := by
  induction ws with
  | nil => rfl
  | cons w ws ih =>
    rw [List.map_cons, runHold, HoldOp.apply, pushHold_of_full h, ih]

/-- Settles O14: each operation keeps the bound, and a push on a full hold is no change. -/
theorem capacityIsNeverExceeded : Obligations.CapacityIsNeverExceeded :=
  ⟨fun os _ h => runHold_count_le os h, fun ws _ h => runHold_push_of_full ws h.ge⟩

/-! ### Pushing some words and releasing them -/

/-- Words pushed with room are held above the older ones, and the hold has an entry for each. -/
theorem heldWords_runHold_push {ws : List Word} (hlen : s.hold.length = s.cfg.k)
    (hroom : s.count + ws.length ≤ s.cfg.k) :
    heldWords (runHold (ws.map .push) s) = heldWords s ++ ws ∧
      (runHold (ws.map .push) s).count ≤ (runHold (ws.map .push) s).hold.length := by
  induction ws generalizing s with
  | nil => exact ⟨(List.append_nil _).symm, hlen ▸ hroom⟩
  | cons w ws ih =>
    rw [List.length_cons] at hroom
    have hw : s.count < s.cfg.k := by omega
    have hcount : (pushHold w s).count = s.count + 1 := by rw [pushHold_of_room hw]
    obtain ⟨hheld, hle⟩ := @ih (pushHold w s) (by simpa using hlen) (by simp [hcount]; omega)
    refine ⟨?_, hle⟩
    rw [heldWords_pushHold_of_room hw hlen, List.append_assoc, List.singleton_append] at hheld
    exact hheld

/-- Released words come newest first, and the words below them are left. -/
theorem released_of_heldWords_eq_append {us ws : List Word} (hlen : s.count ≤ s.hold.length)
    (hheld : heldWords s = us ++ ws) :
    released ws.length s = ws.reverse.map some ∧
      heldWords (runHold (List.replicate ws.length .pop) s) = us := by
  induction ws using List.reverseRecOn generalizing s with
  | nil => exact ⟨rfl, hheld.trans (List.append_nil us)⟩
  | append_singleton ws w ih =>
    rw [← List.append_assoc] at hheld
    have htop : peekTop s = some w := by
      rw [peekTop_eq_getLast? hlen, hheld, List.getLast?_concat]
    have hrest : heldWords (popTop s) = us ++ ws := by
      rw [heldWords_popTop hlen, hheld, List.dropLast_concat]
    obtain ⟨hrel, hleft⟩ := @ih (popTop s) (by simp; omega) hrest
    rw [List.length_append, List.length_singleton]
    exact ⟨by simp [released, htop, hrel], hleft⟩

/-- Settles O13: the pushed words stand on top of the older ones, and releasing takes the top. -/
theorem releaseOrderIsLastInFirstOut : Obligations.ReleaseOrderIsLastInFirstOut := by
  intro ws s hlen hroom
  obtain ⟨hheld, hle⟩ := heldWords_runHold_push hlen hroom
  exact released_of_heldWords_eq_append hle hheld

end Sys2Proof.Machine
end

section
/-! SUPPORT. The tick and the transport port (42_link_tick.md): which steps the machine refuses, and
where a `Submit` or an `ArmReceive` comes from. Both need one fact of the dispatcher: what a dispatch can do. -/

namespace Sys2Proof.Machine

/-! ### A dispatch -/

/-- The state with the registers a dispatch writes put at one value each: what a dispatch leaves. -/
def undispatched (s : State) : State :=
  { s with
    resp             := 0
    staging          := .blank 0
    pendingSyncError := false
    rebootRequested  := false
    cmdReg           := 0
    storeCount       := 0
    calls            := []
    freeIndex        := 0 }

@[simp] theorem undispatched_armed (s : State) : (undispatched s).armed = s.armed := rfl
@[simp] theorem undispatched_out (s : State) : (undispatched s).out = s.out := rfl

/-- The command is a ProgramDuration whose station the duration array has no place for
(93_implementation_defined.md I9). -/
def DurationOutOfRange (c : Config) (cmd : Command) : Prop :=
  ∃ slot sid dur, cmd = .known (.programDuration slot sid dur) ∧ c.nStations ≤ sid

theorem durationOutOfRange_programDuration {c : Config} {slot sid dur : Nat} :
    DurationOutOfRange c (.known (.programDuration slot sid dur)) ↔ c.nStations ≤ sid := by
  simp [DurationOutOfRange]

theorem storeUpsert_undispatched (i : Nat) (s : State) :
    undispatched (storeUpsert i s) = undispatched s := by
  simp [undispatched]

theorem storeDelete_undispatched (i : Nat) (s : State) :
    undispatched (storeDelete i s) = undispatched s := by
  simp [undispatched]

theorem desync_undispatched (s : State) : undispatched (desync s) = undispatched s := by
  simp [undispatched]

theorem dispatchWith_goes_on {branch : State → Host.Outcome State Fault Refusal} {s b : State}
    (h : branch (clearPending s) = .next b) (hb : undispatched b = undispatched s) :
    ∃ t, dispatchWith branch s = .next t ∧ undispatched t = undispatched s :=
  ⟨respond b, dispatchWith_eq_next.mpr ⟨b, h, rfl⟩, hb⟩

/-- Everything a dispatch of a command can do: go on and leave all but the dispatcher's own registers, or
be refused for the one operand I9 excludes (45_dispatcher_contract.md R276). -/
theorem exec_cases (i : Instr) (s : State) :
    (¬ DurationOutOfRange s.cfg (.known i) ∧
      ∃ t, exec i s = .next t ∧ undispatched t = undispatched s) ∨
    (DurationOutOfRange s.cfg (.known i) ∧ exec i s = .refused .durationOutOfRange) := by
  cases i <;> simp only [exec, execTestStation, execProgramAddDel, execProgramMainSetup,
    execProgramDays, execProgramStartTime, execProgramDuration, execTimeSync, execTimeZoneSync,
    execCurrentRequest, execEmergencyShutdown, execStationReboot, execSyncError]
  case programDuration slot sid dur =>
    rw [durationOutOfRange_programDuration]
    by_cases hsid : s.cfg.nStations ≤ sid
    · have hslot : durationSlot (clearPending s).cfg sid = none := durationSlot_eq_none.mpr hsid
      exact .inr ⟨hsid, dispatchWith_eq_refused.mpr (by simp only [hslot])⟩
    · have hslot : durationSlot (clearPending s).cfg sid = some sid :=
        durationSlot_eq_some.mpr ⟨Nat.not_le.mp hsid, rfl⟩
      exact .inl ⟨hsid, dispatchWith_goes_on (by simp only [hslot]; rfl) (by simp [undispatched])⟩
  all_goals refine .inl ⟨by simp [DurationOutOfRange], ?_⟩
  case programAddDel slot add =>
    by_cases hadd : flagField add = true
    · by_cases hslot : slot = s.storeCount
      · exact dispatchWith_goes_on (b := storeUpsert slot (clearPending s)) (by simp [hadd, hslot])
          (storeUpsert_undispatched ..)
      · exact dispatchWith_goes_on (b := desync (clearPending s)) (by simp [hadd, hslot])
          (desync_undispatched _)
    · by_cases hslot : slot < s.storeCount
      · exact dispatchWith_goes_on (b := storeDelete slot (clearPending s)) (by simp [hadd, hslot])
          (storeDelete_undispatched ..)
      · exact dispatchWith_goes_on (b := desync (clearPending s)) (by simp [hadd, hslot])
          (desync_undispatched _)
  case programMainSetup => exact dispatchWith_goes_on rfl (storeUpsert_undispatched ..)
  all_goals exact dispatchWith_goes_on rfl (by simp [undispatched])

/-- Everything the dispatcher's run on a received word can do; an unknown opcode goes on
(45_dispatcher_contract.md R275). -/
theorem runDispatch_cases (w : Word) (s : State) :
    (¬ DurationOutOfRange s.cfg (slice s.cfg.opc w) ∧ ∃ t, runDispatch w s = .next t ∧
      undispatched t = undispatched (emit (.dispatch w) s)) ∨
    (DurationOutOfRange s.cfg (slice s.cfg.opc w) ∧
      runDispatch w s = .refused .durationOutOfRange) := by
  unfold runDispatch
  cases slice s.cfg.opc w with
  | known i => exact exec_cases i (beginDispatch w s)
  | unknown op p =>
    exact .inl ⟨by simp [DurationOutOfRange],
      dispatchWith_goes_on (s := beginDispatch w s) rfl (by simp [undispatched])⟩

theorem runDispatch_undispatched {w : Word} {s t : State} (h : runDispatch w s = .next t) :
    undispatched t = undispatched (emit (.dispatch w) s) := by
  rcases runDispatch_cases w s with ⟨_, t', hnext, hkept⟩ | ⟨_, hrefused⟩
  · rw [hnext] at h
    cases h
    exact hkept
  · simp [hrefused] at h

theorem runDispatch_eq_refused {w : Word} {s : State} {r : Refusal} :
    runDispatch w s = .refused r ↔
      DurationOutOfRange s.cfg (slice s.cfg.opc w) ∧ r = .durationOutOfRange := by
  rcases runDispatch_cases w s with ⟨hin, t, hnext, _⟩ | ⟨hout, hrefused⟩
  · simp [hin, hnext]
  · simp [hout, hrefused, eq_comm]

/-! ### Refused steps -/

theorem remoteExpire_ne_refused (now : Nat) (s : State) (r : Refusal) :
    remoteExpire now s ≠ .refused r := by
  unfold remoteExpire; split <;> simp

theorem remoteResponse_ne_refused (now : Nat) (w : Word) (s : State) (r : Refusal) :
    remoteResponse now w s ≠ .refused r := by
  unfold remoteResponse; split <;> simp

/-- A Remote has a rule for each of its ticks (43_link_remote.md R200 to R210). -/
theorem remoteTransition_ne_refused (now : Nat) (s : State) (r : Refusal) :
    remoteTransition now s ≠ .refused r := by
  unfold remoteTransition
  cases s.ls with
  | receive =>
    simp only [remoteReceive]
    split
    · exact remoteResponse_ne_refused now _ _ r
    · split
      · simp
      · exact remoteExpire_ne_refused now _ r
    · split
      · exact remoteExpire_ne_refused now _ r
      · simp
  | _ => simp

/-- A Station's tick in `Receive` is refused only by the dispatch of the word it received. -/
theorem stationReceive_eq_refused {now : Nat} {s : State} {r : Refusal} :
    stationReceive now s = .refused r ↔ ∃ w, s.rxFlag = true ∧ s.rxRes = .frame w ∧
      runDispatch w (drainRx s) = .refused r := by
  unfold stationReceive
  split
  next w hrx =>
    obtain ⟨hflag, hres⟩ := pendingRx_eq_some.mp hrx
    simp [andThen_eq_refused, hflag, hres]
  next q hq hrx =>
    obtain ⟨_, hres⟩ := pendingRx_eq_some.mp hrx
    simpa [hres] using fun _ w hw => absurd hw (hq w)
  next hrx => simp [pendingRx_eq_none.mp hrx]

theorem stationTransition_eq_refused {now : Nat} {s : State} {r : Refusal} :
    stationTransition now s = .refused r ↔
      s.ls = .receive ∧ stationReceive now s = .refused r := by
  unfold stationTransition; split <;> simp_all

theorem transition_eq_refused {now : Nat} {s : State} {r : Refusal} :
    transition now s = .refused r ↔ s.cfg.role = .station ∧ s.ls = .receive ∧
      ∃ w, s.rxFlag = true ∧ s.rxRes = .frame w ∧
        DurationOutOfRange s.cfg (slice s.cfg.opc w) ∧ r = .durationOutOfRange := by
  unfold transition
  cases hr : s.cfg.role with
  | remote => simp [remoteTransition_ne_refused]
  | station =>
    simp [stationTransition_eq_refused, stationReceive_eq_refused, runDispatch_eq_refused]

theorem tick_eq_refused {now : Nat} {s : State} {r : Refusal} : tick now s = .refused r ↔
    (now < s.lastNow ∧ r = .timeBackwards) ∨
      (s.lastNow ≤ now ∧ transition now s = .refused r) := by
  unfold tick
  split
  next hback => simp [hback, Nat.not_le.mpr hback, eq_comm]
  next hforth => simp [andThen_eq_refused, hforth, Nat.not_lt.mp hforth]

theorem hostPush_eq_refused {w : Word} {s : State} {r : Refusal} :
    hostPush w s = .refused r ↔ s.cfg.role = .station ∧ r = .pushOnStation := by
  unfold hostPush; cases s.cfg.role <;> simp [eq_comm]

theorem step_eq_refused {s : State} {r : Refusal} : step s = .refused r ↔
    ∃ i rest, s.inputs = i :: rest ∧
      applyInput i (clearTrace (setInputs rest s)) = .refused r := by
  unfold step; split <;> simp_all

/-- Settles O37: the refusals of a step, agent by agent. A delivery is never refused. -/
theorem stepIsRefusedExactlyWhenTheSpecHasNone :
    Obligations.StepIsRefusedExactlyWhenTheSpecHasNone := by
  intro s r
  rw [step_eq_refused]
  refine exists_congr fun i => exists_congr fun rest => and_congr_right fun _ => ?_
  cases i with
  | tick now =>
    rw [applyInput, tick_eq_refused, transition_eq_refused]
    constructor
    · rintro (⟨hback, rfl⟩ |
        ⟨hforth, hr, hl, w, hflag, hres, ⟨slot, sid, dur, hcmd, hsid⟩, rfl⟩)
      · exact .inl ⟨now, rfl, hback, rfl⟩
      · exact .inr (.inr
          ⟨now, w, slot, sid, dur, rfl, hforth, hr, hl, hflag, hres, hcmd, hsid, rfl⟩)
    · rintro (⟨_, ⟨⟩, hback, rfl⟩ | ⟨_, ⟨⟩, _⟩ |
        ⟨_, w, slot, sid, dur, ⟨⟩, hforth, hr, hl, hflag, hres, hcmd, hsid, rfl⟩)
      · exact .inl ⟨hback, rfl⟩
      · exact .inr ⟨hforth, hr, hl, w, hflag, hres, ⟨slot, sid, dur, hcmd, hsid⟩, rfl⟩
  | push w => simp [applyInput, hostPush_eq_refused]
  | txDone | rxDone => simp [applyInput]

/-! ### The transport port -/

/-- The event is an operation of the TransportPort (42_link_tick.md R174, R176). -/
def Event.ofPort : Event → Bool
  | .submit _   => true
  | .armReceive => true
  | _           => false

theorem transition_armed {now : Nat} {s : State} {p : State × Bool} (h : TransitionCase now s p) :
    p.1.armed = s.armed := by
  cases h with
  | stationDispatches w t _ _ _ _ hd =>
    simpa using congrArg State.armed (runDispatch_undispatched hd)
  | _ => simp

/-- No transition uses the transport port: its operations belong to the action phase
(42_link_tick.md R173). -/
theorem transition_mem_out_of_port {now : Nat} {s : State} {p : State × Bool} {e : Event}
    (h : TransitionCase now s p) (he : e.ofPort = true) : e ∈ p.1.out ↔ e ∈ s.out := by
  cases h with
  | stationDispatches w t _ _ _ _ hd =>
    have hout : t.out = s.out ++ [.dispatch w] := by
      simpa using congrArg State.out (runDispatch_undispatched hd)
    cases e <;> simp_all [Event.ofPort]
  | remoteResponds r =>
    by_cases hsync : opcodeOf r = s.cfg.opc.syncError <;> cases e <;> simp_all [Event.ofPort]
  | _ => cases e <;> simp_all [Event.ofPort]

/-- Settles O48: of the cases of a step only the action phase arms the receiver, which it reports, and
only a receive-done disarms it. -/
theorem anArmLastsUntilOneReceiveDone : Obligations.AnArmLastsUntilOneReceiveDone := by
  refine ⟨fun s t h => ?_, fun _ _ => rfl⟩
  cases step_cases h with
  | idle hin | push _ _ hin | txDone _ _ hin | rxDone _ _ hin => simp [hin]
  | tick now rest p hin _ hp =>
    have harmed : p.1.armed = s.armed := by simpa using transition_armed hp
    have hnone : Event.armReceive ∉ p.1.out := by
      simp [transition_mem_out_of_port (e := .armReceive) hp rfl]
    rcases actionPhase_cases now s.ls p.2 p.1 with
      ⟨_, _, _, _, _, he⟩ | ⟨_, _, he⟩ | ⟨_, _, _, _, he⟩ | ⟨_, _, _, he⟩ <;>
      simp [he, hin, harmed, hnone]

/-! ### Submitted frames -/

/-- A Remote enters `Send` only from `Buffering` (43_link_remote.md R202), and never rearms there. -/
theorem remote_enters_send_from_buffering {now : Nat} {s : State} {p : State × Bool}
    (hr : s.cfg.role = .remote) (h : TransitionCase now s p) (hl : p.1.ls = .send)
    (henter : p.1.ls ≠ s.ls ∨ p.2 = true) : s.ls = .buffering := by
  cases h with
  | remoteSends _ hbuf _ => exact hbuf
  | _ => simp_all

/-- A response is pending after a transition only when it was before or the transition dispatched a word
(44_link_station.md R233). -/
theorem transition_txPending {now : Nat} {s : State} {p : State × Bool}
    (h : TransitionCase now s p) (hp : p.1.txPending = true) : s.txPending = true ∨
      ∃ w, s.rxFlag = true ∧ s.rxRes = .frame w ∧ s.ls = .receive := by
  cases h with
  | stationDispatches w t _ hl hflag hres _ => exact .inr ⟨w, hflag, hres, hl⟩
  | _ => simp_all

/-- The top word is the same before a transition that ends in `Send` as after it. -/
theorem transition_peekTop_of_send {now : Nat} {s : State} {p : State × Bool}
    (h : TransitionCase now s p) (hl : p.1.ls = .send) : peekTop p.1 = peekTop s := by
  obtain ⟨hhold, hcount | ⟨_, _, hbuf, _⟩⟩ := transition_hold_count h
  · exact peekTop_congr hcount hhold
  · simp [hl] at hbuf

/-- Settles O46: a submit is one of the action phase's two, and the transition before it says from which
state. -/
theorem submittedFramesAreTheTopOrTheResponse :
    Obligations.SubmittedFramesAreTheTopOrTheResponse := by
  intro s t f h hf
  cases step_cases h with
  | idle | push | txDone | rxDone => simp at hf
  | tick now rest p _ _ hp =>
    have hnone : Event.submit f ∉ p.1.out := by
      simp [transition_mem_out_of_port (e := .submit f) hp rfl]
    have hrole : p.1.cfg.role = s.cfg.role := by simp [transition_cfg_associated hp]
    rcases actionPhase_cases now s.ls p.2 p.1 with
      ⟨hr, hl, henter, w, htop, he⟩ | ⟨_, _, he⟩ | ⟨hr, hl, hpend, hsettle, he⟩ | ⟨_, _, _, he⟩
    · have hframe : f = toFrame w := by simpa [he, hnone] using hf
      rw [hrole] at hr
      rw [transition_peekTop_of_send hp hl] at htop
      have hbuf : (clearTrace (setInputs rest s)).ls = .buffering :=
        remote_enters_send_from_buffering hr hp hl henter
      exact .inl ⟨hr, hbuf, by simp [he, hl], w, htop, hframe⟩
    · simp [he, hnone] at hf
    · have hframe : f = toFrame p.1.resp := by simpa [he, hnone] using hf
      exact .inr ⟨hrole ▸ hr, by simp [he, hl], by simp [he], by simp [he], by simpa [he] using hsettle,
        by simpa [he] using hframe, by simpa using transition_txPending hp hpend⟩
    · simp [he, hnone] at hf

end Sys2Proof.Machine
end

section
/-! SUPPORT. The Remote's link (43_link_remote.md): its tick in each state, as a case of the transition followed
by the action phase, when it purges its store, and the round trip that nothing answers. -/

namespace Sys2Proof.Machine

/-! ### The cases of a transition are exact -/

@[simp] theorem emit_peekTop (e : Event) (s : State) : peekTop (emit e s) = peekTop s := rfl
@[simp] theorem drainRx_peekTop (s : State) : peekTop (drainRx s) = peekTop s := rfl

/-- Where the guard of a case holds the transition goes on as the case says: the converse of
`transition_cases`. -/
theorem transition_of_case {now : Nat} {s : State} {p : State × Bool} (h : TransitionCase now s p) :
    transition now s = .next p := by
  cases h with
  | remoteAssociated hr hl ha =>
    rcases hl with hl | hl <;>
      simp [transition, remoteTransition, remoteInit, remoteAssociate, hr, hl, ha]
  | remoteInitWaits hr hl ha => simp [transition, remoteTransition, remoteInit, hr, hl, ha]
  | remoteAssociateWaits hr hl ha => simp [transition, remoteTransition, remoteAssociate, hr, hl, ha]
  | remoteSends hr hl hc | remoteHoldEmpty hr hl hc =>
    simp [transition, remoteTransition, remoteBuffering, size, hr, hl, hc]
  | remoteSent r hr hl hf hres =>
    simp [transition, remoteTransition, remoteSend, hr, hl, pendingTx_eq_some.mpr ⟨hf, hres⟩]
  | remoteSendExpires hr hl hf hd =>
    simp [transition, remoteTransition, remoteSend, hr, hl, pendingTx_eq_none.mpr hf, hd]
  | remoteSendWaits hr hl hf hd =>
    simp [transition, remoteTransition, remoteSend, hr, hl, pendingTx_eq_none.mpr hf,
      Nat.not_le.mpr hd]
  | remoteResponds r c hr hl hf hres hc =>
    simp [transition, remoteTransition, remoteReceive, remoteResponse, hr, hl,
      pendingRx_eq_some.mpr ⟨hf, hres⟩, hc]
  | remoteRearms q hr hl hf hres hq hpol =>
    cases q with
    | frame w => exact absurd rfl (hq w)
    | crcMismatch | otherError =>
      simp [transition, remoteTransition, remoteReceive, hr, hl,
        pendingRx_eq_some.mpr ⟨hf, hres⟩, hpol]
  | remoteErrorExpires q c hr hl hf hres hq hpol hc =>
    cases q with
    | frame w => exact absurd rfl (hq w)
    | crcMismatch | otherError =>
      simp [transition, remoteTransition, remoteReceive, remoteExpire, hr, hl,
        pendingRx_eq_some.mpr ⟨hf, hres⟩, hpol, hc]
  | remoteReceiveExpires c hr hl hf hd hc =>
    simp [transition, remoteTransition, remoteReceive, remoteExpire, hr, hl,
      pendingRx_eq_none.mpr hf, hd, hc]
  | remoteReceiveWaits hr hl hf hd =>
    simp [transition, remoteTransition, remoteReceive, hr, hl, pendingRx_eq_none.mpr hf,
      Nat.not_le.mpr hd]
  | stationAssociated hr hl ha =>
    rcases hl with hl | hl <;>
      simp [transition, stationTransition, stationInit, stationAssociate, hr, hl, ha]
  | stationInitWaits hr hl ha => simp [transition, stationTransition, stationInit, hr, hl, ha]
  | stationAssociateWaits hr hl ha =>
    simp [transition, stationTransition, stationAssociate, hr, hl, ha]
  | stationDispatches w t hr hl hf hres hd =>
    simp [transition, stationTransition, stationReceive, hr, hl, pendingRx_eq_some.mpr ⟨hf, hres⟩, hd]
  | stationRearms q hr hl hf hres hq =>
    cases q with
    | frame w => exact absurd rfl (hq w)
    | crcMismatch | otherError =>
      simp [transition, stationTransition, stationReceive, hr, hl, pendingRx_eq_some.mpr ⟨hf, hres⟩]
  | stationListens hr hl hf =>
    simp [transition, stationTransition, stationReceive, hr, hl, pendingRx_eq_none.mpr hf]
  | stationSent r hr hl hp hf hres =>
    simp [transition, stationTransition, stationSend, hr, hl, hp, pendingTx_eq_some.mpr ⟨hf, hres⟩]
  | stationSendExpires hr hl hp hd =>
    rcases hp with hp | hf
    · simp [transition, stationTransition, stationSend, hr, hl, hp, hd]
    · simp [transition, stationTransition, stationSend, hr, hl, pendingTx_eq_none.mpr hf, hd]
  | stationSendWaits hr hl hp hd =>
    rcases hp with hp | hf
    · simp [transition, stationTransition, stationSend, hr, hl, hp, Nat.not_le.mpr hd]
    · simp [transition, stationTransition, stationSend, hr, hl, pendingTx_eq_none.mpr hf,
        Nat.not_le.mpr hd]

/-! ### The action phase by the state it meets -/

section
variable {now : Nat} {old : LinkState} {rearm : Bool} {s : State}

theorem actionPhase_enters_send {w : Word} (hr : s.cfg.role = .remote) (hl : s.ls = .send)
    (hold : old ≠ .send) (htop : peekTop s = some w) :
    actionPhase now old rearm s = submit w s := by
  simp [actionPhase, entryAction, hr, hl, hold.symm, htop]

theorem actionPhase_arms (hl : s.ls = .receive) (h : old ≠ .receive ∨ rearm = true) :
    actionPhase now old rearm s = armReceiver s := by
  have henter : LinkState.receive ≠ old ∨ rearm = true := by rwa [ne_comm]
  simp only [actionPhase, entryAction, hl, henter, if_true]
  simp [hl]

theorem remote_actionPhase_stays (hr : s.cfg.role = .remote) (hl : s.ls = old) :
    actionPhase now old false s = s := by
  simp [actionPhase, hr, hl]

/-- Only `Send` and `Receive` have an action (42_link_tick.md R173, R174). -/
theorem actionPhase_of_ls_ne (hsend : s.ls ≠ .send) (hreceive : s.ls ≠ .receive) :
    actionPhase now old rearm s = s := by
  rcases actionPhase_cases now old rearm s with ⟨_, hl, _⟩ | ⟨hl, _⟩ | ⟨_, hl, _⟩ | ⟨_, _, _, he⟩
  · exact absurd hl hsend
  · exact absurd hl hreceive
  · exact absurd hl hsend
  · exact he

end

/-! ### The Remote's tick -/

theorem closeWindow_eq (now : Nat) (s : State) : closeWindow now s =
    { s with ls := .buffering, deadline := now + s.cfg.w, count := s.count - 1 } := by
  rw [closeWindow, popTop_eq]; rfl

section
variable {now : Nat} {s p u : State} {rearm : Bool}

/-- A tick at a time not before the last is its transition, then its action phase, which ends in `u`. -/
theorem tick_of_case (hn : s.lastNow ≤ now) (h : TransitionCase now s (p, rearm))
    (hu : actionPhase now s.ls rearm p = u) : tick now s = .next (stamp now u) :=
  tick_eq_next.mpr ⟨hn, (p, rearm), transition_of_case h, congrArg (stamp now) hu⟩

theorem remote_tick_stays (hr : s.cfg.role = .remote) (hn : s.lastNow ≤ now)
    (h : TransitionCase now s (p, false)) (hl : p.ls = s.ls) : tick now s = .next (stamp now p) := by
  have hrole : p.cfg.role = .remote := (congrArg Config.role (transition_cfg_associated h).1).trans hr
  exact tick_of_case hn h (remote_actionPhase_stays hrole hl)

/-- The tick that ends a Remote's receive window has no further action. -/
theorem tick_closes_window (hn : s.lastNow ≤ now)
    (h : TransitionCase now s (closeWindow now u, false)) : tick now s = .next { u with
      ls := .buffering, deadline := now + u.cfg.w, count := u.count - 1, lastNow := now } := by
  rw [tick_of_case hn h (actionPhase_of_ls_ne (by simp) (by simp)), closeWindow_eq]
  rfl

end

/-- Settles O26, by whether the node is associated. -/
theorem remoteLeavesInitAndAssociateByAssociation :
    Obligations.RemoteLeavesInitAndAssociateByAssociation := by
  intro now s hr hn hl
  by_cases ha : s.associated = true
  · rw [if_pos ha]
    exact tick_of_case hn (.remoteAssociated hr hl ha) (actionPhase_of_ls_ne (by simp) (by simp))
  · rw [if_neg ha]
    have ha : s.associated = false := Bool.eq_false_of_not_eq_true ha
    rcases hl with hl | hl
    · exact tick_of_case hn (.remoteInitWaits hr hl ha) (actionPhase_of_ls_ne (by simp) (by simp))
    · rw [← hl]
      exact remote_tick_stays hr hn (.remoteAssociateWaits hr hl ha) rfl

/-- Settles O27: the backoff check follows the reset of the timer to `now`, so only the hold decides. -/
theorem remoteBufferingSendsTheTop : Obligations.RemoteBufferingSendsTheTop := by
  intro now s hr hn hl
  refine ⟨fun hpos => ?_, fun hempty => remote_tick_stays hr hn (.remoteHoldEmpty hr hl hempty) rfl⟩
  obtain ⟨w, htop⟩ := peekTop_isSome hpos
  exact ⟨w, htop, tick_of_case hn (.remoteSends hr hl hpos)
    (actionPhase_enters_send hr rfl (by simp [hl]) htop)⟩

/-- Settles O28: one case of the transition per clause, and the entry into `Receive` arms the receiver. -/
theorem remoteSendEndsByCompletionOrExpiry : Obligations.RemoteSendEndsByCompletionOrExpiry := by
  intro now s hr hn hl
  have henter : s.ls ≠ .receive ∨ false = true := by simp [hl]
  refine ⟨fun hflag => ?_, fun hflag hexpired => ?_, fun hflag hwait => ?_⟩
  · rw [tick_of_case hn (.remoteSent s.txRes hr hl hflag rfl) (actionPhase_arms rfl henter),
      reportTx_eq]
    rfl
  · exact tick_of_case hn (.remoteSendExpires hr hl hflag hexpired) (actionPhase_arms rfl henter)
  · exact remote_tick_stays hr hn (.remoteSendWaits hr hl hflag hwait) rfl

/-- Settles O29: the purge and the mismatch report are made each on its own, before the pop. -/
theorem remoteTakesAResponse : Obligations.RemoteTakesAResponse := by
  intro now s c r hr hn hl hflag hres htop
  rw [tick_closes_window hn (.remoteResponds r c hr hl hflag hres htop), reportMismatch_eq,
    purgeOnSyncError_eq]
  rfl

/-- Settles O30: the report comes first under either policy, then a rearm or the end of the window. -/
theorem remoteReceiveErrorFollowsThePolicy : Obligations.RemoteReceiveErrorFollowsThePolicy := by
  intro now s k hr hn hl hflag herror
  obtain ⟨hnoframe, rfl⟩ : (∀ w, s.rxRes ≠ .frame w) ∧ rxErrorKind s.rxRes = k := by
    rcases herror with ⟨hres, rfl⟩ | ⟨hres, rfl⟩ <;> simp [hres, rxErrorKind]
  refine ⟨fun hpolicy => ?_, fun c hpolicy htop => ?_⟩
  · rw [tick_of_case hn (.remoteRearms s.rxRes hr hl hflag rfl hnoframe hpolicy)
      (actionPhase_arms hl (.inr rfl))]
    simp [stamp, armReceiver, emit, drainRx]
  · rw [tick_closes_window hn (.remoteErrorExpires s.rxRes c hr hl hflag rfl hnoframe hpolicy htop)]
    simp [emit, drainRx]

/-- Settles O31: with no completion the deadline alone decides between the two cases. -/
theorem remoteReceiveWindowExpires : Obligations.RemoteReceiveWindowExpires := by
  intro now s hr hn hl hflag
  exact ⟨fun c hexpired htop =>
      tick_closes_window hn (.remoteReceiveExpires c hr hl hflag hexpired htop),
    fun hwait => remote_tick_stays hr hn (.remoteReceiveWaits hr hl hflag hwait) rfl⟩

/-! ### The purge -/

/-- A Remote in `Receive` holds a received frame with the opcode of SyncError. -/
def TakesSyncError (s : State) : Prop :=
  s.cfg.role = .remote ∧ s.ls = .receive ∧ s.rxFlag = true ∧
    ∃ r, s.rxRes = .frame r ∧ opcodeOf r = s.cfg.opc.syncError

/-- Of the transitions only that of R207 purges the Remote's store. -/
theorem transition_mem_out_storeDeleteAll {now : Nat} {s : State} {p : State × Bool}
    (h : TransitionCase now s p) :
    .storeDeleteAll ∈ p.1.out ↔ .storeDeleteAll ∈ s.out ∨ TakesSyncError s := by
  cases h with
  | remoteResponds r c hr hl hf hres _ =>
    by_cases hsync : opcodeOf r = s.cfg.opc.syncError <;>
      simp [TakesSyncError, hr, hl, hf, hres, hsync]
  | stationDispatches w t hr _ _ _ hd =>
    have hout : t.out = s.out ++ [.dispatch w] := by
      simpa using congrArg State.out (runDispatch_undispatched hd)
    simp [TakesSyncError, hr, hout]
  | remoteAssociated _ hl _ => rcases hl with hl | hl <;> simp [TakesSyncError, hl]
  | _ => simp_all [TakesSyncError]

/-- The action phase emits operations of the transport port and nothing else (42_link_tick.md R173). -/
theorem actionPhase_mem_out_of_not_port (now : Nat) (old : LinkState) (rearm : Bool) (s : State)
    {e : Event} (he : e.ofPort = false) : e ∈ (actionPhase now old rearm s).out ↔ e ∈ s.out := by
  have hsubmit : ∀ f, e ≠ .submit f := by rintro f rfl; cases he
  have harm : e ≠ .armReceive := by rintro rfl; cases he
  rcases actionPhase_cases now old rearm s with
    ⟨_, _, _, _, _, h⟩ | ⟨_, _, h⟩ | ⟨_, _, _, _, h⟩ | ⟨_, _, _, h⟩ <;>
    simp [h, hsubmit, harm]

/-- Settles O45: a step starts with an empty trace, and only a tick's transition can purge. -/
theorem remotePurgesExactlyOnSyncError : Obligations.RemotePurgesExactlyOnSyncError := by
  intro s t h
  cases step_cases h with
  | idle hin | push _ _ hin | txDone _ _ hin | rxDone _ _ hin => simp [hin]
  | tick now rest p hin _ hp =>
    rw [stamp_out, actionPhase_mem_out_of_not_port _ _ _ _ rfl, transition_mem_out_storeDeleteAll hp]
    simp [TakesSyncError, hin]

/-! ### A round trip without a response -/

/-- A run whose first agent goes on ends as the run from where that agent leaves the node. -/
theorem run_goes_on {n : Nat} {s t : State} {i : Input} {rest : List Input} {Q : State → Prop}
    (hin : s.inputs = i :: rest) (h : applyInput i (clearTrace (setInputs rest s)) = .next t)
    (hrun : ∃ u, Sys2Proof.core.run n t = .next u ∧ Q u) :
    ∃ u, Sys2Proof.core.run (n + 1) s = .next u ∧ Q u := by
  rw [run_succ, step_eq_next.mpr (.inr ⟨i, rest, hin, h⟩)]
  exact hrun

/-- Settles O55: the ticks of `Buffering`, of `Send` with a completion and of `Receive` at its expiry, one
after the other. -/
theorem unansweredCommandIsLostWithoutRetry : Obligations.UnansweredCommandIsLostWithoutRetry := by
  intro s c t1 t2 t3 hinv hr hl hheld hn1 hn2 hn3 hin
  have hlen : s.count ≤ s.hold.length := hinv.holdRemote hr ▸ hinv.countLe
  have hcount : s.count = 1 := by
    simpa [heldWords, Nat.min_eq_left hlen] using congrArg List.length hheld
  have hpos : 0 < s.count := by omega
  have htop : peekTop s = some c := by rw [peekTop_eq_getLast? hlen, hheld]; rfl
  refine run_goes_on hin (tick_of_case hn1 (.remoteSends hr hl hpos)
    (actionPhase_enters_send hr rfl (by simp [hl]) htop)) ?_
  refine run_goes_on rfl rfl ?_
  refine run_goes_on rfl (tick_of_case (by simpa using hn2)
    (.remoteSent .ok (by simpa using hr) (by simp) (by simp) (by simp))
    (actionPhase_arms (by simp) (by simp))) ?_
  refine run_goes_on rfl (tick_closes_window (by simpa using Nat.le_of_add_right_le hn3)
    (.remoteReceiveExpires c (by simpa using hr) (by simp) (by simp) (by simpa using hn3)
      (by rw [← htop]; exact peekTop_congr (by simp) (by simp)))) ?_
  exact ⟨_, run_zero _, rfl, by simp [heldWords, hcount], by simp, by simp, by simp⟩

end Sys2Proof.Machine
end

section
/-! SUPPORT. The Station's link (44_link_station.md): its tick in each state, as a case of the transition
followed by the action phase, and the dispatch of a received frame as a step of the machine. -/

namespace Sys2Proof.Machine

/-! ### The registers a dispatch leaves -/

/-- Settles O21: `undispatched` keeps each of these registers, and a dispatch keeps `undispatched`. -/
theorem dispatchWritesNoLinkRegister : Obligations.DispatchWritesNoLinkRegister := by
  intro w s t h
  have hkept : undispatched t = undispatched (emit (.dispatch w) s) := runDispatch_undispatched h
  simp only [undispatched, State.mk.injEq, emit_cfg, emit_ls, emit_associated, emit_deadline,
    emit_txFlag, emit_txRes, emit_rxFlag, emit_rxRes, emit_hold, emit_count, emit_txPending,
    emit_settleAt, emit_armed, emit_inFlight, emit_lastNow, emit_inputs] at hkept
  tauto

theorem runDispatch_cfg {w : Word} {s t : State} (h : runDispatch w s = .next t) : t.cfg = s.cfg :=
  (cfg_associated_of_linkRegs_eq (runDispatch_linkRegs h)).1

/-! ### The action phase of a Station -/

section
variable {now : Nat} {old : LinkState} {rearm : Bool} {s : State}

/-- Without a change of state or a rearm only `Send` has an action (42_link_tick.md R173). -/
theorem actionPhase_stays (hl : s.ls = old) (hsend : s.ls ≠ .send) :
    actionPhase now old false s = s := by
  simp [actionPhase, ← hl, hsend]

theorem settleAction_submits (hp : s.txPending = true) (hd : s.settleAt ≤ now) :
    settleAction now s = dropResponse (submit s.resp s) := by
  simp [settleAction, hp, hd]

theorem settleAction_waits (h : ¬ (s.txPending = true ∧ s.settleAt ≤ now)) :
    settleAction now s = s := by
  simp [settleAction, h]

/-- A Station's `Send` has no entry action, so its settle action is all it does (42_link_tick.md R174). -/
theorem station_actionPhase_send (hr : s.cfg.role = .station) (hl : s.ls = .send) :
    actionPhase now old rearm s = settleAction now s := by
  simp [actionPhase, entryAction, hr, hl]

end

/-! ### The tick on a received frame -/

theorem andThen_assoc {α β γ : Type} (o : Host.Outcome α Fault Refusal)
    (f : α → Host.Outcome β Fault Refusal) (g : β → Host.Outcome γ Fault Refusal) :
    andThen (andThen o f) g = andThen o fun a => andThen (f a) g := by
  cases o <;> rfl

section
variable {now : Nat} {s : State} {w : Word}

theorem tick_eq_andThen (hn : s.lastNow ≤ now) : tick now s =
    andThen (transition now s) fun p => .next (stamp now (actionPhase now s.ls p.2 p.1)) :=
  if_neg (Nat.not_lt.mpr hn)

theorem transition_of_frame (hr : s.cfg.role = .station) (hl : s.ls = .receive)
    (hflag : s.rxFlag = true) (hres : s.rxRes = .frame w) : transition now s =
      andThen (runDispatch w (drainRx s)) fun t => .next (beginResponse now t, false) := by
  simp [transition, stationTransition, stationReceive, hr, hl,
    pendingRx_eq_some.mpr ⟨hflag, hres⟩]

/-- Whatever the dispatch answers, a Station's tick on a received frame is the dispatch and, where it goes
on, the move to `Send` with its action phase (44_link_station.md R233). -/
theorem tick_of_frame (hr : s.cfg.role = .station) (hn : s.lastNow ≤ now) (hl : s.ls = .receive)
    (hflag : s.rxFlag = true) (hres : s.rxRes = .frame w) : tick now s =
      andThen (runDispatch w (drainRx s)) fun t =>
        .next (stamp now (actionPhase now .receive false (beginResponse now t))) := by
  rw [tick_eq_andThen hn, transition_of_frame hr hl hflag hres, andThen_assoc, hl]
  rfl

theorem runDispatch_of_slice {i : Instr} (h : slice s.cfg.opc w = .known i) :
    runDispatch w s = exec i (beginDispatch w s) := by
  simp [runDispatch, h]

theorem step_of_inputs {i : Input} {rest : List Input} (h : s.inputs = i :: rest) :
    step s = applyInput i (clearTrace (setInputs rest s)) := by
  simp [step, h]

end

/-- Settles O34: the dispatch keeps the configuration, so the settle action meets `settle_at = now + S`
and is due in this tick only for `S = 0`. -/
theorem stationDispatchesAndMovesToSend : Obligations.StationDispatchesAndMovesToSend := by
  intro now s t w hr hn hl hflag hres hd
  have hdrain : runDispatch w (drainRx s) = .next t := hd
  have hcfg : t.cfg = s.cfg := by simpa using runDispatch_cfg hdrain
  have hrole : (beginResponse now t).cfg.role = .station := by simp [hcfg, hr]
  rw [tick_of_frame hr hn hl hflag hres, hdrain, andThen_next, station_actionPhase_send hrole rfl]
  refine ⟨fun hzero => ?_, fun hpos => ?_⟩
  · rw [settleAction_submits rfl (by simp [hcfg, hzero])]
    simp [stamp, dropResponse, submit, emit, beginResponse, hcfg, hzero]
  · rw [settleAction_waits (by simp [hcfg]; omega)]
    simp [stamp, beginResponse, hcfg]

/-- Settles O24: the tick on the received frame, whose dispatch is `exec` of what the word slices to. -/
theorem stepRunsTheDecodedCommand : Obligations.StepRunsTheDecodedCommand := by
  intro s now rest w i hr hl hflag hres hin hn hdecode
  have hslice : slice s.cfg.opc w = .known i := by simpa using decodeOctets_eq_ok_iff.mp hdecode
  have hdispatch : runDispatch w (drainRx (clearTrace (setInputs rest s))) = exec i
      (beginDispatch w (drainRx (clearTrace (setInputs rest s)))) := runDispatch_of_slice hslice
  calc step s
    _ = tick now (clearTrace (setInputs rest s)) := step_of_inputs hin
    _ = andThen (runDispatch w (drainRx (clearTrace (setInputs rest s)))) fun t =>
        .next (stamp now (actionPhase now .receive false (beginResponse now t))) :=
      tick_of_frame hr hn hl hflag hres
    _ = _ := by rw [hdispatch]; rfl

theorem decodeOctets_of_decodeTableWord {nbits w : Nat} {i : Instr}
    (h : decodeTableWord nbits w = some i) :
    decodeOctets .table (toFrame (tableWord nbits w)).octets = .ok i := by
  unfold decodeTableWord at h
  split at h
  · split at h <;> simp_all
  · simp at h

/-- Settles O25: the prepared state meets the hypotheses of O24, with a tick at the last tick's time. -/
theorem theFetchedTableWordRunsNext : Obligations.TheFetchedTableWordRunsNext := by
  intro s nbits w i h
  exact stepRunsTheDecodedCommand (s.withFetchWord nbits w) s.lastNow s.inputs (tableWord nbits w) i
    rfl rfl rfl rfl rfl (Nat.le_refl _) (decodeOctets_of_decodeTableWord h)

/-! ### The Station's other ticks -/

/-- Settles O32, by whether the node is associated. -/
theorem stationLeavesInitAndAssociateByAssociation :
    Obligations.StationLeavesInitAndAssociateByAssociation := by
  intro now s hr hn hl
  by_cases ha : s.associated = true
  · have henter : s.ls ≠ .receive ∨ false = true := by rcases hl with hl | hl <;> simp [hl]
    rw [if_pos ha]
    exact tick_of_case hn (.stationAssociated hr hl ha) (actionPhase_arms rfl henter)
  · rw [if_neg ha]
    have ha : s.associated = false := Bool.eq_false_of_not_eq_true ha
    rcases hl with hl | hl
    · exact tick_of_case hn (.stationInitWaits hr hl ha) (actionPhase_of_ls_ne (by simp) (by simp))
    · rw [← hl]
      exact tick_of_case hn (.stationAssociateWaits hr hl ha) (actionPhase_stays rfl (by simp [hl]))

/-- Settles O33: neither case of the transition looks at the deadline or at the policy. -/
theorem stationListensUntilAFrame : Obligations.StationListensUntilAFrame := by
  intro now s k hr hn hl
  refine ⟨fun hflag => tick_of_case hn (.stationListens hr hl hflag)
    (actionPhase_stays rfl (by simp [hl])), fun hflag herror => ?_⟩
  obtain ⟨hnoframe, rfl⟩ : (∀ w, s.rxRes ≠ .frame w) ∧ rxErrorKind s.rxRes = k := by
    rcases herror with ⟨hres, rfl⟩ | ⟨hres, rfl⟩ <;> simp [hres, rxErrorKind]
  rw [tick_of_case hn (.stationRearms s.rxRes hr hl hflag rfl hnoframe)
    (actionPhase_arms hl (.inr rfl))]
  simp [stamp, armReceiver, emit, drainRx]

/-- Settles O35: one case of the transition per clause; the first two enter `Receive`, which arms, and the
last stays in `Send` for the settle action. -/
theorem stationSendSettlesCompletesOrExpires :
    Obligations.StationSendSettlesCompletesOrExpires := by
  intro now s hr hn hl
  have henter : s.ls ≠ .receive ∨ false = true := by simp [hl]
  refine ⟨fun hsent hflag => ?_, fun hopen hexpired => ?_, fun hopen hwait => ?_⟩
  · rw [tick_of_case hn (.stationSent s.txRes hr hl hsent hflag rfl) (actionPhase_arms rfl henter),
      reportTx_eq]
    rfl
  · exact tick_of_case hn (.stationSendExpires hr hl hopen hexpired) (actionPhase_arms rfl henter)
  · rw [tick_of_case hn (.stationSendWaits hr hl hopen hwait) (station_actionPhase_send hr hl)]
    by_cases hdue : s.txPending = true ∧ s.settleAt ≤ now
    · obtain ⟨hpending, hsettled⟩ := hdue
      rw [if_pos ⟨hpending, hsettled⟩, settleAction_submits hpending hsettled]
      rfl
    · rw [if_neg hdue, settleAction_waits hdue]
      rfl

end Sys2Proof.Machine
end

section
/-! SUPPORT. The dispatcher (45_dispatcher_contract.md): the next state of each command word, and from
these what every received word is answered with; and that each is dispatched to its end. -/

namespace Sys2Proof.Machine

variable {s : State}

/-! ### The frame of a dispatch -/

section
variable {branch : State → Host.Outcome State Fault Refusal} {b : State}

/-- A dispatch whose branch leaves the pending flag clear answers the word in the command register. -/
theorem dispatchWith_of_consistent (h : branch (clearPending s) = .next b)
    (hb : b.pendingSyncError = false) :
    dispatchWith branch s = .next { b with resp := b.cmdReg, cmdReg := 0 } :=
  dispatchWith_eq_next.mpr ⟨b, h, by simp [respond, responseWord, hb]⟩

/-- A dispatch whose branch is `Desync()` answers the SyncError word, which overwrites the command
register. -/
theorem dispatchWith_of_desync (h : branch (clearPending s) = .next (desync (clearPending s))) :
    dispatchWith branch s = .next { s with
      calls := s.calls ++ [.deleteAll], storeCount := 0, pendingSyncError := true
      resp := syncErrorWord s.cfg.opc, cmdReg := syncErrorWord s.cfg.opc } :=
  dispatchWith_eq_next.mpr ⟨_, h, by simp [respond, responseWord]⟩

end

/-! ### The immediate commands and the clock -/

/-- Settles O15: the call of each branch, none for three of them. -/
theorem immediateCommandsComplete : Obligations.ImmediateCommandsComplete := by
  intro s
  simp only [exec]
  refine ⟨fun on sid dur => ?testStation, ?stationReboot, ?currentRequest, ?emergencyShutdown,
    ?syncError⟩
  case testStation =>
    exact dispatchWith_of_consistent (b := call (.runZoneTest sid dur) (clearPending s)) rfl rfl
  case stationReboot =>
    exact dispatchWith_of_consistent (b := call (.requestReboot s.cfg.rebootCause)
      { clearPending s with rebootRequested := true }) rfl rfl
  all_goals exact dispatchWith_of_consistent (b := clearPending s) rfl rfl

/-- Settles O16: one call for TimeSync, two in order for TimeZoneSync. -/
theorem clockCommandsComplete : Obligations.ClockCommandsComplete := by
  intro s
  simp only [exec]
  refine ⟨fun minutes => ?timeSync, fun tz => ?timeZoneSync⟩
  case timeSync =>
    exact dispatchWith_of_consistent (b := call (.setTime (minutes * 60)) (clearPending s)) rfl rfl
  case timeZoneSync =>
    have hcalls : s.calls ++ [.setTimezone tz, .disableNtp] =
        s.calls ++ [.setTimezone tz] ++ [.disableNtp] := by simp
    rw [hcalls]
    exact dispatchWith_of_consistent
      (b := call .disableNtp (call (.setTimezone tz) (clearPending s))) rfl rfl

/-! ### The commands that edit the staging record -/

/-- Settles O17: the branches write the staging record alone, and the duration array has a place for a station
exactly below `N_STATIONS`. -/
theorem stagingCommandsComplete : Obligations.StagingCommandsComplete := by
  intro s
  simp only [exec]
  refine ⟨fun slot days => ?days, fun slot ix t ty => ?startTime, fun slot sid dur hsid => ?duration,
    fun slot sid dur hsid => ?refused⟩
  case days =>
    exact dispatchWith_of_consistent (b := { clearPending s with
      staging := { s.staging with days := BitVec.ofNat 16 days } }) rfl rfl
  case startTime =>
    exact dispatchWith_of_consistent (b := { clearPending s with staging := { s.staging with
      startTimes := s.staging.startTimes.set (ix % 4) (BitVec.ofNat 16 t)
      stType := ty % 2 == 1 } }) rfl rfl
  case duration =>
    have hplace : durationSlot (clearPending s).cfg sid = some sid :=
      durationSlot_eq_some.mpr ⟨hsid, rfl⟩
    exact dispatchWith_of_consistent (b := { clearPending s with staging := { s.staging with
      durations := s.staging.durations.set sid (BitVec.ofNat 11 dur) } })
      (by simp only [hplace]; rfl) rfl
  case refused =>
    have hplace : durationSlot (clearPending s).cfg sid = none := durationSlot_eq_none.mpr hsid
    exact dispatchWith_eq_refused.mpr (by simp only [hplace])

/-! ### The commands that call the store -/

theorem flagField_eq_true {v : Nat} : flagField v = true ↔ v % 2 = 1 := by simp [flagField]

theorem flagField_eq_false {v : Nat} : flagField v = false ↔ v % 2 = 0 := by simp [flagField]

theorem storeUpsert_of_lt {slot : Nat} (h : slot < s.storeCount) :
    storeUpsert slot s = call (.upsert slot s.staging) s := if_pos h

theorem storeUpsert_of_eq {slot : Nat} (h : slot = s.storeCount) : storeUpsert slot s =
    { call (.upsert slot s.staging) s with storeCount := s.storeCount + 1 } := by
  simp [storeUpsert, h]

theorem storeUpsert_of_gt {slot : Nat} (h : s.storeCount < slot) : storeUpsert slot s =
    { call (.upsert slot s.staging) s with
      storeCount := Config.upsertBeyondCount s.freeIndex s.storeCount slot
      freeIndex  := s.freeIndex + 1 } := by
  simp [storeUpsert, Nat.not_lt.mpr h.le, h.ne']

/-- The slots ProgramAddDel is inconsistent with: any but the count to add at, none below it to delete. -/
theorem desyncs_programAddDel {n slot add : Nat} :
    desyncs n (.known (.programAddDel slot add)) = true ↔
      (add % 2 = 1 ∧ slot ≠ n) ∨ (add % 2 = 0 ∧ n ≤ slot) := by
  rcases Nat.mod_two_eq_zero_or_one add with hadd | hadd
  · simp [desyncs, flagField_eq_false.mpr hadd, hadd]
  · simp [desyncs, flagField_eq_true.mpr hadd, hadd]

/-- Settles O18, by the flag and then the slot against the count. -/
theorem programAddDelCompletes : Obligations.ProgramAddDelCompletes := by
  intro slot add s
  simp only [exec]
  refine ⟨fun hadd hslot => ?add, fun hadd hslot => ?delete, fun hbad => ?desync⟩
  case add =>
    exact dispatchWith_of_consistent (b := { call (.upsert slot s.staging) (clearPending s) with
        storeCount := s.storeCount + 1 })
      ((if_pos (flagField_eq_true.mpr hadd)).trans ((if_pos hslot).trans
        (congrArg _ (storeUpsert_of_eq hslot)))) rfl
  case delete =>
    exact dispatchWith_of_consistent (b := storeDelete slot (clearPending s))
      (by simp [flagField_eq_false.mpr hadd, hslot]) rfl
  case desync =>
    refine dispatchWith_of_desync ?_
    rcases hbad with ⟨hadd, hslot⟩ | ⟨hadd, hslot⟩
    · simp [flagField_eq_true.mpr hadd, hslot]
    · simp [flagField_eq_false.mpr hadd, Nat.not_lt.mpr hslot]

/-- Settles O19: the upsert of the new staging record, by the slot against the count. -/
theorem programMainSetupCompletes : Obligations.ProgramMainSetupCompletes := by
  intro slot en uw oe st pc s g t
  rw [exec]
  have hexec {b : State} (hupsert : storeUpsert slot { clearPending s with staging := g } = b)
      (hb : b.pendingSyncError = false) : execProgramMainSetup slot en uw oe st pc s =
        .next { b with resp := b.cmdReg, cmdReg := 0 } :=
    dispatchWith_of_consistent (s := s) (congrArg _ hupsert) hb
  rcases Nat.lt_trichotomy slot s.storeCount with hlt | heq | hgt
  · rw [if_pos hlt]
    exact hexec (storeUpsert_of_lt hlt) rfl
  · rw [if_neg heq.not_lt, if_pos heq]
    exact hexec (storeUpsert_of_eq heq) rfl
  · rw [if_neg (Nat.not_lt.mpr hgt.le), if_neg hgt.ne']
    exact hexec (storeUpsert_of_gt hgt) rfl

/-! ### The answer to a word -/

/-- What a dispatch from `s` to `t` shows of a command that is, or is not, a desynchronisation
(45_dispatcher_contract.md R262, R276). -/
def Answers (s t : State) (desynced : Bool) : Prop :=
  t.resp = (if desynced then syncErrorWord s.cfg.opc else s.cmdReg) ∧
  t.pendingSyncError = desynced ∧
  t.out = s.out ∧
  ∃ cs, t.calls = s.calls ++ cs ∧ (Call.deleteAll ∈ cs ↔ desynced = true)

theorem answers_of_exec_eq {i : Instr} {t u : State} {d : Bool} (h : exec i s = .next t)
    (hexec : exec i s = .next u) (hu : Answers s u d) : Answers s t d := by
  rw [hexec] at h
  cases h
  exact hu

theorem programAddDel_answers {slot add : Nat} {t : State}
    (h : exec (.programAddDel slot add) s = .next t) :
    Answers s t (desyncs s.storeCount (.known (.programAddDel slot add))) := by
  obtain ⟨hinsert, hdelete, hdesync⟩ := programAddDelCompletes slot add s
  by_cases hbad : desyncs s.storeCount (.known (.programAddDel slot add)) = true
  · rw [hbad]
    exact answers_of_exec_eq h (hdesync (desyncs_programAddDel.mp hbad))
      ⟨rfl, rfl, rfl, _, rfl, by simp⟩
  · rw [Bool.eq_false_of_not_eq_true hbad]
    rw [desyncs_programAddDel] at hbad
    rcases Nat.mod_two_eq_zero_or_one add with hadd | hadd
    · exact answers_of_exec_eq h (hdelete hadd (by omega)) ⟨rfl, rfl, rfl, _, rfl, by simp⟩
    · exact answers_of_exec_eq h (hinsert hadd (by omega)) ⟨rfl, rfl, rfl, _, rfl, by simp⟩

theorem programMainSetup_answers {slot en uw oe st pc : Nat} {t : State}
    (h : exec (.programMainSetup slot en uw oe st pc) s = .next t) : Answers s t false := by
  refine answers_of_exec_eq h (programMainSetupCompletes slot en uw oe st pc s) ?_
  split
  · exact ⟨rfl, rfl, rfl, _, rfl, by simp⟩
  · split <;> exact ⟨rfl, rfl, rfl, _, rfl, by simp⟩

theorem programDuration_answers {slot sid dur : Nat} {t : State}
    (h : exec (.programDuration slot sid dur) s = .next t) : Answers s t false := by
  obtain ⟨_, _, hplace, hrefused⟩ := stagingCommandsComplete s
  by_cases hsid : sid < s.cfg.nStations
  · exact answers_of_exec_eq h (hplace slot sid dur hsid) ⟨rfl, rfl, rfl, [], by simp, by simp⟩
  · simp [hrefused slot sid dur (Nat.not_lt.mp hsid)] at h

/-- Every command is answered with the word in the command register unless it is a desynchronisation, by the
next state of each. -/
theorem exec_answers {i : Instr} {t : State} (h : exec i s = .next t) :
    Answers s t (desyncs s.storeCount (.known i)) := by
  obtain ⟨htest, hreboot, hcurrent, hshutdown, hsync⟩ := immediateCommandsComplete s
  obtain ⟨htime, hzone⟩ := clockCommandsComplete s
  obtain ⟨hdays, hstart, _⟩ := stagingCommandsComplete s
  cases i with
  | programAddDel slot add => exact programAddDel_answers h
  | programMainSetup slot en uw oe st pc => exact programMainSetup_answers h
  | programDuration slot sid dur => exact programDuration_answers h
  | testStation on sid dur =>
    exact answers_of_exec_eq h (htest on sid dur) ⟨rfl, rfl, rfl, _, rfl, by simp [desyncs]⟩
  | stationReboot => exact answers_of_exec_eq h hreboot ⟨rfl, rfl, rfl, _, rfl, by simp [desyncs]⟩
  | timeSync minutes =>
    exact answers_of_exec_eq h (htime minutes) ⟨rfl, rfl, rfl, _, rfl, by simp [desyncs]⟩
  | timeZoneSync tz =>
    exact answers_of_exec_eq h (hzone tz) ⟨rfl, rfl, rfl, _, rfl, by simp [desyncs]⟩
  | programDays slot days =>
    exact answers_of_exec_eq h (hdays slot days) ⟨rfl, rfl, rfl, [], by simp, by simp [desyncs]⟩
  | programStartTime slot ix time ty =>
    exact answers_of_exec_eq h (hstart slot ix time ty) ⟨rfl, rfl, rfl, [], by simp, by simp [desyncs]⟩
  | currentRequest =>
    exact answers_of_exec_eq h hcurrent ⟨rfl, rfl, rfl, [], by simp, by simp [desyncs]⟩
  | emergencyShutdown =>
    exact answers_of_exec_eq h hshutdown ⟨rfl, rfl, rfl, [], by simp, by simp [desyncs]⟩
  | syncError => exact answers_of_exec_eq h hsync ⟨rfl, rfl, rfl, [], by simp, by simp [desyncs]⟩

/-- A word with an unknown opcode takes the branch of a received SyncError, which has no action
(45_dispatcher_contract.md R275). -/
theorem execUnknown_eq_exec_syncError (s : State) : execUnknown s = exec .syncError s := rfl

theorem runDispatch_answers {w : Word} {t : State} (h : runDispatch w s = .next t) :
    Answers (beginDispatch w s) t (desyncs s.storeCount (slice s.cfg.opc w)) := by
  unfold runDispatch at h
  cases hslice : slice s.cfg.opc w with
  | known i =>
    rw [hslice] at h
    exact exec_answers h
  | unknown op p =>
    rw [hslice] at h
    exact exec_answers (execUnknown_eq_exec_syncError _ ▸ h)

/-- Settles O20: a dispatch begins with the word in the command register and its event, and every command is
answered from there. -/
theorem responseIsTheWordOrSyncError : Obligations.ResponseIsTheWordOrSyncError :=
  fun _ _ _ h => runDispatch_answers h

/-! ### Every word is dispatched -/

theorem wf_of_slice_eq_known {m : OpcodeMap} {w : Word} {i : Instr} (h : slice m w = .known i) :
    i.wf = true := by
  obtain ⟨_, hi⟩ := slice_eq_known h
  exact hi ▸ wf_slicePayload _ _

/-- A sliced station id has 8 bits, so an array of 256 places has one for it. -/
theorem not_durationOutOfRange_slice {c : Config} (hc : 256 ≤ c.nStations) (w : Word) :
    ¬ DurationOutOfRange c (slice c.opc w) := by
  rintro ⟨slot, sid, dur, hslice, hout⟩
  have hwf := wf_of_slice_eq_known hslice
  simp only [Instr.wf, Bool.and_eq_true, decide_eq_true_eq] at hwf
  omega

/-- Settles O22: a dispatch goes on or is refused, and a refusal needs a station with no place. -/
theorem everyWordIsDispatchedToItsEnd : Obligations.EveryWordIsDispatchedToItsEnd := by
  intro w s
  rcases runDispatch_cases w s with ⟨_, t, hnext, _⟩ | ⟨hout, hrefused⟩
  · exact ⟨by simp [hnext, NoFault], fun _ => ⟨t, hnext⟩⟩
  · exact ⟨by simp [hrefused, NoFault], fun hc => absurd hout (not_durationOutOfRange_slice hc w)⟩

end Sys2Proof.Machine
end

section
/-! SUPPORT. The errors of the block (60_exceptions.md): that none of them halts it, that a completion waits
in its cell until its state tests it, and which step raises each class. -/

namespace Sys2Proof.Machine

/-! ### No fault -/

theorem remoteExpire_fault {now : Nat} {s : State} {r : Fault} (h : remoteExpire now s = .fault r) :
    s.count = 0 := by
  unfold remoteExpire at h
  split at h
  next => cases h
  next htop => exact peekTop_eq_none.mp htop

theorem remoteResponse_fault {now : Nat} {w : Word} {s : State} {r : Fault}
    (h : remoteResponse now w s = .fault r) : s.count = 0 := by
  unfold remoteResponse at h
  split at h
  next => cases h
  next htop => exact peekTop_eq_none.mp htop

theorem remoteReceive_fault {now : Nat} {s : State} {r : Fault} (h : remoteReceive now s = .fault r) :
    s.count = 0 := by
  unfold remoteReceive at h
  split at h
  next => simpa using remoteResponse_fault h
  next =>
    split at h
    · cases h
    · simpa using remoteExpire_fault h
  next =>
    split at h
    · exact remoteExpire_fault h
    · cases h

theorem runDispatch_ne_fault (w : Word) (s : State) (r : Fault) : runDispatch w s ≠ .fault r := by
  rcases runDispatch_cases w s with ⟨_, t, hnext, _⟩ | ⟨_, hrefused⟩
  · simp [hnext]
  · simp [hrefused]

theorem stationReceive_ne_fault (now : Nat) (s : State) (r : Fault) :
    stationReceive now s ≠ .fault r := by
  unfold stationReceive
  split
  · simp [andThen_eq_fault, runDispatch_ne_fault]
  · simp
  · simp

/-- The only two states without a rule, which 10_state.md R34 items 2 and 3 exclude. -/
theorem transition_fault {now : Nat} {s : State} {r : Fault} (h : transition now s = .fault r) :
    (s.cfg.role = .remote ∧ s.ls = .receive ∧ s.count = 0) ∨
      (s.cfg.role = .station ∧ s.ls = .buffering) := by
  unfold transition at h
  cases hr : s.cfg.role with
  | remote =>
    simp only [hr, remoteTransition] at h
    cases hl : s.ls with
    | receive => exact .inl ⟨rfl, rfl, remoteReceive_fault (by simpa [hl] using h)⟩
    | _ => simp [hl] at h
  | station =>
    simp only [hr, stationTransition] at h
    cases hl : s.ls with
    | buffering => exact .inr ⟨rfl, rfl⟩
    | receive => exact absurd (by simpa [hl] using h) (stationReceive_ne_fault now s r)
    | _ => simp [hl] at h

theorem transition_noFault {s : State} (hi : LinkInv s) (now : Nat) : NoFault (transition now s) := by
  refine noFault_iff.mpr fun r h => ?_
  rcases transition_fault h with ⟨hr, hl, hempty⟩ | ⟨hr, hl⟩
  · have htop := hi.topHeld hr (.inr hl)
    omega
  · exact hi.noBuffering hr hl

theorem tick_noFault {s : State} (hi : LinkInv s) (now : Nat) : NoFault (tick now s) := by
  have htransition := noFault_iff.mp (transition_noFault hi now)
  unfold tick
  split
  · trivial
  · exact noFault_iff.mpr fun r => by simp [andThen_eq_fault, htransition]

theorem step_noFault {s : State} (hi : LinkInv s) : NoFault (step s) := by
  cases hin : s.inputs with
  | nil => simp [step, hin, NoFault]
  | cons i rest =>
    rw [step_of_inputs hin]
    cases i with
    | tick now => exact tick_noFault (linkInv_of_linkRegs_eq (by simp) hi) now
    | push w => simp only [applyInput, hostPush]; split <;> trivial
    | txDone | rxDone => trivial

/-- Settles O40, by induction on the number of steps: each of them keeps the invariant, which excludes the
states without a rule. -/
theorem noRunFaults : Obligations.NoRunFaults := by
  intro n
  induction n with
  | zero => exact fun _ _ => trivial
  | succ n ih =>
    intro s hi
    have hstep := step_noFault hi
    rw [run_succ]
    cases h : step s with
    | next t => exact ih t (step_keeps_linkInv hi h)
    | fault r => simp [h, NoFault] at hstep
    | refused r => trivial

/-! ### A pending completion -/

theorem runDispatch_flags {w : Word} {s t : State} (h : runDispatch w s = .next t) :
    t.txFlag = s.txFlag ∧ t.rxFlag = s.rxFlag := by
  have hkept := runDispatch_undispatched h
  exact ⟨by simpa [undispatched] using congrArg State.txFlag hkept,
    by simpa [undispatched] using congrArg State.rxFlag hkept⟩

/-- A transition drains the transmit cell only in `Send` (42_link_tick.md R178). -/
theorem transition_txFlag {now : Nat} {s : State} {p : State × Bool} (h : TransitionCase now s p) :
    p.1.txFlag = s.txFlag ∨ s.ls = .send := by
  cases h with
  | stationDispatches w t _ _ _ _ hd => exact .inl (by simpa using (runDispatch_flags hd).1)
  | remoteSent _ _ hl | stationSent _ _ hl => exact .inr hl
  | _ => simp

/-- A transition drains the receive cell only in `Receive` (42_link_tick.md R179). -/
theorem transition_rxFlag {now : Nat} {s : State} {p : State × Bool} (h : TransitionCase now s p) :
    p.1.rxFlag = s.rxFlag ∨ s.ls = .receive := by
  cases h with
  | stationDispatches _ _ _ hl | stationRearms _ _ hl | remoteResponds _ _ _ hl
  | remoteRearms _ _ hl | remoteErrorExpires _ _ _ hl => exact .inr hl
  | _ => simp

/-- The action phase clears a cell only with the operation that uses it: a submit in `Send`, an arm in
`Receive`. -/
theorem actionPhase_flags (now : Nat) (old : LinkState) (rearm : Bool) (s : State) :
    ((actionPhase now old rearm s).txFlag = s.txFlag ∨ s.ls = .send) ∧
      ((actionPhase now old rearm s).rxFlag = s.rxFlag ∨ s.ls = .receive) := by
  rcases actionPhase_cases now old rearm s with
    ⟨_, hsend, _, _, _, he⟩ | ⟨hreceive, _, he⟩ | ⟨_, hsend, _, _, he⟩ | ⟨_, _, _, he⟩
  · simp [he, hsend]
  · simp [he, hreceive]
  · simp [he, hsend]
  · simp [he]

/-- Settles O47: a delivery only sets its flag, and of a tick the transition clears a cell in the state that
tests it, the action phase in the state just entered. -/
theorem completionsArePendingUntilTested : Obligations.CompletionsArePendingUntilTested := by
  intro s t h
  cases step_cases h with
  | idle | push | txDone | rxDone => simp_all
  | tick now rest p hin _ hp =>
    have hls := (actionPhase_ls_hold_count now s.ls p.2 p.1).1
    obtain ⟨htxAct, hrxAct⟩ := actionPhase_flags now s.ls p.2 p.1
    have htx := transition_txFlag hp
    have hrx := transition_rxFlag hp
    refine ⟨fun hset hclear => ⟨⟨now, rest, hin⟩, ?_⟩, fun hset hclear => ⟨⟨now, rest, hin⟩, ?_⟩⟩
    · rcases htxAct with hact | hsend
      · simp_all
      · exact .inr (hls.trans hsend)
    · rcases hrxAct with hact | hreceive
      · simp_all
      · exact .inr (hls.trans hreceive)

/-! ### The causes of the error classes -/

/-- The cause of E1 (60_exceptions.md R291): the state tests a cell that holds an error, a Station its
transmit cell only once the response is sent. -/
def TakesTransportError (s : State) : Prop :=
  (s.ls = .send ∧ s.txFlag = true ∧ s.txRes = .error ∧
    (s.cfg.role = .station → s.txPending = false)) ∨
  (s.ls = .receive ∧ s.rxFlag = true ∧ (s.rxRes = .crcMismatch ∨ s.rxRes = .otherError))

/-- The cause of E2 (60_exceptions.md R292). -/
def TakesMismatch (s : State) : Prop :=
  ∃ c r, s.cfg.role = .remote ∧ s.ls = .receive ∧ s.rxFlag = true ∧ s.rxRes = .frame r ∧
    peekTop s = some c ∧ r ≠ c

/-- The cause of E3 (60_exceptions.md R293). -/
def TakesDesync (s : State) : Prop :=
  ∃ w, s.cfg.role = .station ∧ s.ls = .receive ∧ s.rxFlag = true ∧ s.rxRes = .frame w ∧
    desyncs s.storeCount (slice s.cfg.opc w) = true

@[simp] theorem clearTrace_peekTop (s : State) : peekTop (clearTrace s) = peekTop s := rfl
@[simp] theorem setInputs_peekTop (rest : List Input) (s : State) :
    peekTop (setInputs rest s) = peekTop s := rfl

theorem rxRes_error_of_not_frame {q : RxResult} (h : ∀ w, q ≠ .frame w) :
    q = .crcMismatch ∨ q = .otherError := by
  cases q with
  | frame w => exact absurd rfl (h w)
  | crcMismatch | otherError => simp

theorem runDispatch_out {w : Word} {s t : State} (h : runDispatch w s = .next t) :
    t.out = s.out ++ [.dispatch w] := by
  simpa using congrArg State.out (runDispatch_undispatched h)

/-- Of a response a Remote reports the purge and the mismatch (43_link_remote.md R207). -/
theorem mem_out_response {c r : Word} {s : State} {e : Event} (he : e ≠ .storeDeleteAll) :
    e ∈ (reportMismatch c r (purgeOnSyncError r s)).out ↔
      e ∈ s.out ∨ (r ≠ c ∧ e = .protocolMismatch c r) := by
  simp [he]

/-- A transition reports an E1 exactly when it takes a completion that holds an error. -/
theorem transition_mem_out_transportError {now : Nat} {s : State} {p : State × Bool}
    (h : TransitionCase now s p) : (∃ k, .transportError k ∈ p.1.out) ↔
      (∃ k, .transportError k ∈ s.out) ∨ TakesTransportError s := by
  cases h with
  | remoteAssociated _ hl | stationAssociated _ hl =>
    rcases hl with hl | hl <;> simp [TakesTransportError, hl]
  | remoteSent r hr hl hf hres | stationSent r hr hl hp hf hres =>
    cases r <;> simp_all [TakesTransportError]
  | remoteRearms q hr hl hf hres hq | remoteErrorExpires q c hr hl hf hres hq
  | stationRearms q hr hl hf hres hq =>
    simp [TakesTransportError, hl, hf, hres, rxRes_error_of_not_frame hq]
  | remoteResponds r c hr hl hf hres =>
    simp [TakesTransportError, hl, hres, mem_out_response, -reportMismatch_out]
  | stationDispatches w t hr hl hf hres hd =>
    simp [TakesTransportError, hl, hres, runDispatch_out hd]
  | stationSendExpires hr hl hp | stationSendWaits hr hl hp =>
    rcases hp with hp | hf
    · simp [TakesTransportError, hl, hr, hp]
    · simp [TakesTransportError, hl, hf]
  | _ => simp_all [TakesTransportError]

/-- Of the transitions only that of R207 reports an E2. -/
theorem transition_mem_out_protocolMismatch {now : Nat} {s : State} {p : State × Bool}
    (h : TransitionCase now s p) : (∃ c r, .protocolMismatch c r ∈ p.1.out) ↔
      (∃ c r, .protocolMismatch c r ∈ s.out) ∨ TakesMismatch s := by
  cases h with
  | remoteAssociated _ hl | stationAssociated _ hl =>
    rcases hl with hl | hl <;> simp [TakesMismatch, hl]
  | remoteResponds r c hr hl hf hres htop =>
    simp [TakesMismatch, hr, hl, hf, hres, htop, exists_or, mem_out_response, -reportMismatch_out]
  | stationDispatches w t hr hl hf hres hd =>
    simp [TakesMismatch, hr, runDispatch_out hd]
  | remoteRearms q _ _ _ hres hq | remoteErrorExpires q _ _ _ _ hres hq =>
    simp [TakesMismatch, hres, hq]
  | _ => simp_all [TakesMismatch]

/-- Of the transitions only the dispatch of R233 calls a collaborator, and an inconsistent slot is all that has
it delete every program (45_dispatcher_contract.md R262). -/
theorem transition_mem_calls_deleteAll {now : Nat} {s : State} {p : State × Bool}
    (h : TransitionCase now s p) :
    .deleteAll ∈ p.1.calls ↔ .deleteAll ∈ s.calls ∨ TakesDesync s := by
  cases h with
  | stationAssociated _ hl =>
    rcases hl with hl | hl <;> simp [TakesDesync, hl]
  | stationDispatches w t hr hl hf hres hd =>
    obtain ⟨_, _, _, cs, hcalls, hdesync⟩ := runDispatch_answers hd
    simp_all [TakesDesync]
  | stationRearms q _ _ _ hres hq =>
    simp [TakesDesync, hres, hq]
  | _ => simp_all [TakesDesync]

theorem actionPhase_calls (now : Nat) (old : LinkState) (rearm : Bool) (s : State) :
    (actionPhase now old rearm s).calls = s.calls := by
  rcases actionPhase_cases now old rearm s with
    ⟨_, _, _, _, _, he⟩ | ⟨_, _, he⟩ | ⟨_, _, _, _, he⟩ | ⟨_, _, _, he⟩ <;> simp [he]

theorem dropsPush_iff {s : State} :
    dropsPush s = true ↔ ∃ w rest, s.inputs = .push w :: rest ∧ s.cfg.k ≤ s.count := by
  unfold dropsPush
  split <;> simp_all

/-- Settles O57: only the transition of a tick reports an error of E1 or E2 or calls for one of E3, and only a
push meets a full hold, which it leaves. -/
theorem eachErrorClassIsRaisedExactlyByItsCause :
    Obligations.EachErrorClassIsRaisedExactlyByItsCause := by
  intro s t h
  rw [transport_mem_stepErrors, protocol_mem_stepErrors, consistency_mem_stepErrors,
    capacity_mem_stepErrors, dropsPush_iff]
  cases step_cases h with
  | idle hin | txDone _ _ hin | rxDone _ _ hin => simp [hin]
  | push w rest hin hr =>
    refine ⟨by simp [hin], by simp [hin], by simp [hin], Iff.rfl, fun w' rest' hin' hfull => ?_⟩
    obtain ⟨⟨⟩, rfl⟩ := hin.symm.trans hin'
    exact pushHold_of_full hfull
  | tick now rest p hin _ hp =>
    have hout {e : Event} (he : e.ofPort = false) :=
      actionPhase_mem_out_of_not_port now s.ls p.2 p.1 he
    have htransport := (exists_congr fun k => hout (e := .transportError k) rfl).trans
      (transition_mem_out_transportError hp)
    have hprotocol :=
      (exists_congr fun c => exists_congr fun r => hout (e := .protocolMismatch c r) rfl).trans
        (transition_mem_out_protocolMismatch hp)
    have hconsistency := transition_mem_calls_deleteAll hp
    rw [stamp_out, stamp_calls, htransport, hprotocol, actionPhase_calls, hconsistency]
    simp [hin, TakesTransportError, TakesMismatch, TakesDesync]

end Sys2Proof.Machine
end

section
/-! SUPPORT. The exchange in which no error occurs (60_exceptions.md R308): the moves of the system of two
nodes, the Station's answer, and a command's way to the Station and back. -/

namespace Sys2Proof.Machine

/-! ### The moves of the system -/

section
variable (x : System) (s : State) (k : Nat)

@[simp] theorem node_remote : x.node .remote = x.remote := rfl
@[simp] theorem node_station : x.node .station = x.station := rfl
@[simp] theorem airTo_remote : x.airTo .remote = x.toRemote := rfl
@[simp] theorem airTo_station : x.airTo .station = x.toStation := rfl
@[simp] theorem update_remote : x.update .remote s =
    { x with remote := s, toStation := x.toStation ++ submitted s.out } := rfl
@[simp] theorem update_station : x.update .station s =
    { x with station := s, toRemote := x.toRemote ++ submitted s.out } := rfl
@[simp] theorem settle_remote : x.settle .remote k =
    { x with toRemote := x.toRemote.eraseIdx k } := rfl
@[simp] theorem settle_station : x.settle .station k =
    { x with toStation := x.toStation.eraseIdx k } := rfl
@[simp] theorem settle_node (r q : Role) : (x.settle r k).node q = x.node q := by
  cases r <;> cases q <;> rfl

@[simp] theorem submitted_nil : submitted [] = [] := rfl
@[simp] theorem submitted_submit (f : Frame) (es : List Event) :
    submitted (.submit f :: es) = fromFrame f :: submitted es := rfl
@[simp] theorem submitted_of_not_submit {e : Event} (es : List Event) (h : ∀ f, e ≠ .submit f) :
    submitted (e :: es) = submitted es := by
  cases e with
  | submit f => exact absurd rfl (h f)
  | _ => rfl

/-- A node of the system as its agent's step finds it: nothing else placed, and an empty trace. -/
@[simp] def System.ready (r : Role) : State := clearTrace (setInputs [] (x.node r))

end

section
variable {x y : System} {r : Role}

/-- A run whose first move goes on ends as the run from where that move leaves the system. -/
theorem system_run_goes_on {m : Move} {ms : List Move} {Q : System → Prop} (h : x.move m = .next y)
    (hrun : ∃ z, y.run ms = .next z ∧ Q z) : ∃ z, x.run (m :: ms) = .next z ∧ Q z := by
  rw [System.run, h]
  exact hrun

theorem nodeStep_of_applyInput {i : Input} {t : State} (h : applyInput i (x.ready r) = .next t) :
    x.nodeStep r i = .next (x.update r t) := by
  have hstep : step { x.node r with inputs := [i] } = .next t := h
  rw [System.nodeStep, hstep, andThen_next]

theorem move_tick {now : Nat} {t : State} (h : tick now (x.ready r) = .next t) :
    x.move (.tick r now) = .next (x.update r t) :=
  nodeStep_of_applyInput h

theorem move_txDone {q : TxResult} (h : 0 < (x.node r).inFlight) :
    x.move (.txDone r q) = .next (x.update r (deliverTx q (x.ready r))) := by
  rw [System.move, if_pos h]
  exact nodeStep_of_applyInput rfl

/-- The oldest frame on the air arrives at an armed receiver. -/
theorem move_air_intact {w : Word} {ws : List Word} (hair : x.airTo r = w :: ws)
    (harmed : (x.node r).armed = true) : x.move (.air r 0 .intact) =
      .next ((x.settle r 0).update r (deliverRx (.frame w) (x.ready r))) := by
  have hready : (x.settle r 0).ready r = x.ready r := by simp [System.ready]
  rw [← hready]
  simp only [System.move, hair, List.getElem?_cons_zero, System.arrive, settle_node, harmed, if_true]
  exact nodeStep_of_applyInput rfl

end

/-! ### The Station's answer -/

/-- A Station with no settle delay answers a consistent word with itself in the tick that takes it
(44_link_station.md R233, R236, 45_dispatcher_contract.md R276). -/
theorem station_answers_in_the_same_tick {now : Nat} {s : State} {w : Word}
    (hr : s.cfg.role = .station) (hn : s.lastNow ≤ now) (hl : s.ls = .receive)
    (hflag : s.rxFlag = true) (hres : s.rxRes = .frame w) (hzero : s.cfg.s = 0)
    (hplaces : 256 ≤ s.cfg.nStations) (hout : s.out = [])
    (hconsistent : desyncs s.storeCount (slice s.cfg.opc w) = false) :
    ∃ t, tick now s = .next t ∧ t.ls = .send ∧ t.resp = w ∧ t.txPending = false ∧
      submitted t.out = [w] := by
  obtain ⟨t, hd⟩ := (everyWordIsDispatchedToItsEnd w (drainRx s)).2 hplaces
  obtain ⟨hresp, _⟩ := runDispatch_answers hd
  have hresp : t.resp = w := by simpa [hconsistent] using hresp
  have htrace : t.out = [.dispatch w] := by simpa [hout] using runDispatch_out hd
  refine ⟨_, (stationDispatchesAndMovesToSend now s t w hr hn hl hflag hres hd).1 hzero, rfl, hresp, rfl,
    ?_⟩
  simp [htrace, hresp]

/-! ### The exchange -/

/-- A Remote that holds one word has it on top. -/
theorem count_peekTop_of_heldWords {s : State} {c : Word} (hi : LinkInv s) (hr : s.cfg.role = .remote)
    (h : heldWords s = [c]) : s.count = 1 ∧ peekTop s = some c := by
  have hlen : s.count ≤ s.hold.length := hi.holdRemote hr ▸ hi.countLe
  constructor
  · simpa [heldWords, Nat.min_eq_left hlen] using congrArg List.length h
  · rw [peekTop_eq_getLast? hlen, h]
    rfl

/-- Settles O56, move by move: the Remote submits its top, is told so and arms its receiver; the Station
answers the word that arrived; and the answer meets the same word on top. -/
theorem commandTravelsEndToEnd : Obligations.CommandTravelsEndToEnd := by
  rintro ⟨r, s, _, _⟩ c t1 t2 t3 u hinv hr hrl hheld hn1 hn2 hn3 _ hs hsl harmed hzero hu hplaces
    hconsistent hnosync rfl rfl
  dsimp only at *
  obtain ⟨hcount, htop⟩ := count_peekTop_of_heldWords hinv hr hheld
  refine system_run_goes_on (move_tick (tick_of_case hn1 (.remoteSends hr hrl (by simp [hcount]))
    (actionPhase_enters_send hr rfl (by simp [hrl]) htop))) ?_
  refine system_run_goes_on (move_txDone (by simp)) ?_
  refine system_run_goes_on (move_air_intact (w := c) (ws := []) (by simp)
    (by simpa using harmed)) ?_
  refine system_run_goes_on (move_tick (tick_of_case (by simpa using hn2)
    (.remoteSent .ok (by simpa using hr) (by simp) (by simp) (by simp))
    (actionPhase_arms rfl (by simp)))) ?_
  obtain ⟨t, htick, hl, hresp, hpending, hsubmitted⟩ := station_answers_in_the_same_tick (now := u)
    (s := clearTrace (setInputs [] (deliverRx (.frame c) (clearTrace (setInputs [] s)))))
    hs hu hsl rfl rfl hzero hplaces rfl hconsistent
  refine system_run_goes_on (move_tick htick) ?_
  refine system_run_goes_on (move_air_intact (w := c) (ws := []) (by simp [hsubmitted])
    (by simp)) ?_
  refine system_run_goes_on (move_tick (tick_closes_window (by simpa using hn3)
    (.remoteResponds c c (by simpa using hr) (by simp) (by simp) (by simp)
      (by rw [← htop]; exact peekTop_congr (by simp) (by simp))))) ?_
  exact ⟨_, rfl, by simp [heldWords, hl, hresp, hpending, hcount, hnosync, hsubmitted]⟩

end Sys2Proof.Machine
end

section
/-! SUPPORT. What a node can show of the registers no reset value is given for (70_reset_and_hazards.md R320):
a step from two states that differ only where no rule reads. -/

namespace Sys2Proof.Machine

/-! ### Two states no rule can tell apart -/

/-- `s` with the registers of 70_reset_and_hazards.md R320 at the values of `u`. -/
def overlay (u : Unspecified) (s : State) : State :=
  { s with
    deadline := u.deadline
    txRes    := u.txRes
    rxRes    := u.rxRes
    hold     := u.hold
    resp     := u.resp
    settleAt := u.settleAt }

/-- The values `s` has in those registers. -/
def unspecified (s : State) : Unspecified where
  deadline := s.deadline
  txRes    := s.txRes
  rxRes    := s.rxRes
  hold     := s.hold
  resp     := s.resp
  settleAt := s.settleAt

/-- `u` has the values of `s` in each of those registers that a rule can read: when `overlay u s` and `s` are
the same to every rule (`sameVisible_iff`). -/
structure Agrees (u : Unspecified) (s : State) : Prop where
  deadline : deadlineLive s = true → u.deadline = s.deadline
  txRes    : s.txFlag = true → u.txRes = s.txRes
  rxRes    : s.rxFlag = true → u.rxRes = s.rxRes
  held     : u.hold.take s.count = s.hold.take s.count
  entries  : u.hold.length = s.hold.length
  resp     : s.txPending = true → u.resp = s.resp
  settleAt : s.txPending = true → u.settleAt = s.settleAt

theorem overlay_unspecified (u : Unspecified) (s : State) : overlay (unspecified s) (overlay u s) = s :=
  rfl

theorem eq_overlay_of_visible_eq {s t : State} (h : visible s = visible t) :
    t = overlay (unspecified t) s := by
  cases s; cases t
  simp_all [visible, overlay, unspecified]

theorem ite_eq_ite_right_iff {α : Type} {c : Bool} {a b d : α} :
    (if c then a else d) = (if c then b else d) ↔ (c = true → b = a) := by
  cases c <;> simp [eq_comm]

theorem sameVisible_overlay_iff {u : Unspecified} {s : State} :
    SameVisible s (overlay u s) ↔ Agrees u s := by
  have hlive : deadlineLive (overlay u s) = deadlineLive s := rfl
  have hvisible : visible s = visible (overlay u s) ↔
      (deadlineLive s = true → u.deadline = s.deadline) ∧ (s.txFlag = true → u.txRes = s.txRes) ∧
      (s.rxFlag = true → u.rxRes = s.rxRes) ∧ s.hold.take s.count = u.hold.take s.count ∧
      (s.txPending = true → u.resp = s.resp) ∧ (s.txPending = true → u.settleAt = s.settleAt) := by
    simp only [visible, State.mk.injEq, hlive]
    simp only [overlay, heldWords, true_and, and_true]
    exact and_congr ite_eq_ite_right_iff <| and_congr ite_eq_ite_right_iff <|
      and_congr ite_eq_ite_right_iff <| and_congr_right fun _ =>
        and_congr ite_eq_ite_right_iff ite_eq_ite_right_iff
  constructor
  · rintro ⟨hsame, hentries⟩
    obtain ⟨hdeadline, htx, hrx, hheld, hresp, hsettle⟩ := hvisible.mp hsame
    exact ⟨hdeadline, htx, hrx, hheld.symm, hentries.symm, hresp, hsettle⟩
  · rintro ⟨hdeadline, htx, hrx, hheld, hentries, hresp, hsettle⟩
    exact ⟨hvisible.mpr ⟨hdeadline, htx, hrx, hheld.symm, hresp, hsettle⟩, hentries.symm⟩

theorem sameVisible_iff {s t : State} :
    SameVisible s t ↔ ∃ u, t = overlay u s ∧ Agrees u s := by
  constructor
  · intro h
    have ht := eq_overlay_of_visible_eq h.visible
    exact ⟨unspecified t, ht, sameVisible_overlay_iff.mp (ht ▸ h)⟩
  · rintro ⟨u, rfl, hu⟩
    exact sameVisible_overlay_iff.mpr hu

/-! ### The operations that read or write such a register -/

section
variable {u : Unspecified} {s : State}

@[simp] theorem overlay_cfg : (overlay u s).cfg = s.cfg := rfl
@[simp] theorem overlay_ls : (overlay u s).ls = s.ls := rfl
@[simp] theorem overlay_count : (overlay u s).count = s.count := rfl
@[simp] theorem overlay_storeCount : (overlay u s).storeCount = s.storeCount := rfl

theorem Agrees.symm (h : Agrees u s) : Agrees (unspecified s) (overlay u s) where
  deadline hlive := (h.deadline hlive).symm
  txRes hflag := (h.txRes hflag).symm
  rxRes hflag := (h.rxRes hflag).symm
  held := h.held.symm
  entries := h.entries.symm
  resp hpending := (h.resp hpending).symm
  settleAt hpending := (h.settleAt hpending).symm

/-- The top is one of the entries below `count` (41_outbound_hold.md R152). -/
theorem peekTop_overlay (h : Agrees u s) : peekTop (overlay u s) = peekTop s := by
  by_cases hempty : s.count = 0
  · rw [peekTop_eq_none.mpr hempty, (peekTop_eq_none (s := overlay u s)).mpr hempty]
  · have htop : u.hold[s.count - 1]? = s.hold[s.count - 1]? := by
      have hbelow : s.count - 1 < s.count := by omega
      simpa [hbelow] using congrArg (·[s.count - 1]?) h.held
    simp [peekTop, holdRead, overlay, hempty, htop]

theorem pushHold_overlay (h : Agrees u s) (w : Word) :
    ∃ v, pushHold w (overlay u s) = overlay v (pushHold w s) ∧ Agrees v (pushHold w s) := by
  by_cases hroom : s.count < s.cfg.k
  · rw [pushHold_of_room hroom, pushHold_of_room (s := overlay u s) hroom]
    refine ⟨{ u with hold := u.hold.set s.count w }, rfl, { h with held := ?_, entries := ?_ }⟩
    · simp [List.take_add_one, List.take_set_of_le, h.held, List.getElem?_set, h.entries]
    · simp [h.entries]
  · rw [pushHold_of_full (Nat.not_lt.mp hroom), pushHold_of_full (s := overlay u s) (Nat.not_lt.mp hroom)]
    exact ⟨u, rfl, h⟩

theorem closeWindow_overlay (h : Agrees u s) (now : Nat) : ∃ v,
    closeWindow now (overlay u s) = overlay v (closeWindow now s) ∧ Agrees v (closeWindow now s) := by
  rw [closeWindow_eq, closeWindow_eq]
  refine ⟨{ u with deadline := now + s.cfg.w }, rfl, { h with deadline := fun _ => rfl, held := ?_ }⟩
  have htake := congrArg (List.take (s.count - 1)) h.held
  simpa [List.take_take] using htake

theorem entryAction_overlay (h : Agrees u s) : entryAction (overlay u s) = overlay u (entryAction s) := by
  have htop := peekTop_overlay h
  unfold entryAction
  rw [htop, overlay_cfg, overlay_ls]
  split
  · cases peekTop s <;> rfl
  · rfl
  · rfl

theorem settleAction_overlay (h : Agrees u s) (now : Nat) :
    settleAction now (overlay u s) = overlay u (settleAction now s) := by
  by_cases hdue : s.txPending = true ∧ s.settleAt ≤ now
  · obtain ⟨hpending, hsettled⟩ := hdue
    rw [settleAction_submits hpending hsettled, settleAction_submits (s := overlay u s) hpending]
    · show overlay u (dropResponse (submit u.resp s)) = _
      rw [h.resp hpending]
    · show u.settleAt ≤ now
      rwa [h.settleAt hpending]
  · rw [settleAction_waits hdue, settleAction_waits]
    rintro ⟨hpending, hsettled⟩
    exact hdue ⟨hpending, h.settleAt hpending ▸ hsettled⟩

end

/-! ### A dispatch -/

section
variable {u : Unspecified}

theorem storeUpsert_overlay (i : Nat) (s : State) :
    storeUpsert i (overlay u s) = overlay u (storeUpsert i s) := by
  rcases Nat.lt_trichotomy i s.storeCount with hlt | heq | hgt
  · rw [storeUpsert_of_lt hlt, storeUpsert_of_lt (s := overlay u s) hlt]; rfl
  · rw [storeUpsert_of_eq heq, storeUpsert_of_eq (s := overlay u s) heq]; rfl
  · rw [storeUpsert_of_gt hgt, storeUpsert_of_gt (s := overlay u s) hgt]; rfl

theorem storeDelete_overlay (i : Nat) (s : State) :
    storeDelete i (overlay u s) = overlay u (storeDelete i s) := rfl

theorem desync_overlay (s : State) : desync (overlay u s) = overlay u (desync s) := rfl

theorem dispatchWith_overlay {branch : State → Host.Outcome State Fault Refusal}
    (hb : ∀ a, branch (overlay u a) = andThen (branch a) fun b => .next (overlay u b)) (s : State) :
    dispatchWith branch (overlay u s) =
      andThen (dispatchWith branch s) fun t => .next (overlay { u with resp := t.resp } t) := by
  have hbranch : branch (clearPending (overlay u s)) = _ := hb (clearPending s)
  rw [dispatchWith, hbranch, dispatchWith]
  cases branch (clearPending s) <;> rfl

theorem exec_overlay (i : Instr) (s : State) : exec i (overlay u s) =
    andThen (exec i s) fun t => .next (overlay { u with resp := t.resp } t) := by
  cases i <;> simp only [exec, execTestStation, execProgramAddDel, execProgramMainSetup,
    execProgramDays, execProgramStartTime, execProgramDuration, execTimeSync, execTimeZoneSync,
    execCurrentRequest, execEmergencyShutdown, execStationReboot, execSyncError] <;>
    refine dispatchWith_overlay (fun a => ?_) s
  case programAddDel slot add =>
    by_cases hadd : flagField add = true
    · by_cases hslot : slot = a.storeCount
      · simp [hadd, hslot, storeUpsert_overlay]
      · simp [hadd, hslot, desync_overlay]
    · by_cases hslot : slot < a.storeCount
      · simp [hadd, hslot, storeDelete_overlay]
      · simp [hadd, hslot, desync_overlay]
  case programMainSetup slot en uw oe st pc =>
    exact congrArg _ (storeUpsert_overlay slot { a with staging := _ })
  case programDuration slot sid dur =>
    rw [overlay_cfg]
    cases durationSlot a.cfg sid <;> rfl
  all_goals rfl

theorem runDispatch_overlay (w : Word) (s : State) : runDispatch w (overlay u s) =
    andThen (runDispatch w s) fun t => .next (overlay { u with resp := t.resp } t) := by
  have hslice : slice (overlay u s).cfg.opc w = slice s.cfg.opc w := rfl
  unfold runDispatch
  rw [hslice]
  cases slice s.cfg.opc w with
  | known i => exact exec_overlay i (beginDispatch w s)
  | unknown op p => exact exec_overlay .syncError (beginDispatch w s)

end

/-! ### A step -/

section
variable {now : Nat} {u : Unspecified} {s t : State}

theorem deadlineLive_iff :
    deadlineLive s = true ↔ s.ls = .send ∨ (s.ls = .receive ∧ s.cfg.role = .remote) := by
  simp [deadlineLive]

theorem drainTx_overlay : drainTx (overlay u s) = overlay u (drainTx s) := rfl
theorem drainRx_overlay : drainRx (overlay u s) = overlay u (drainRx s) := rfl

theorem Agrees.drainTx (h : Agrees u s) : Agrees u (drainTx s) := { h with txRes := by simp }
theorem Agrees.drainRx (h : Agrees u s) : Agrees u (drainRx s) := { h with rxRes := by simp }

theorem reportTx_overlay (r : TxResult) (s : State) :
    reportTx r (overlay u s) = overlay u (reportTx r s) := by
  rw [reportTx_eq, reportTx_eq]; rfl

theorem Agrees.reportTx (h : Agrees u s) (r : TxResult) : Agrees u (reportTx r s) := by
  rw [reportTx_eq]; exact { h with }

theorem response_overlay (c r : Word) (s : State) :
    reportMismatch c r (purgeOnSyncError r (overlay u s)) =
      overlay u (reportMismatch c r (purgeOnSyncError r s)) := by
  simp only [reportMismatch_eq, purgeOnSyncError_eq]; rfl

theorem Agrees.response (h : Agrees u s) (c r : Word) :
    Agrees u (reportMismatch c r (purgeOnSyncError r s)) := by
  rw [reportMismatch_eq, purgeOnSyncError_eq]; exact { h with }

/-- A dispatch answers from the word and the dispatcher's own registers (45_dispatcher_contract.md R276), so
both states begin the same response. -/
theorem Agrees.beginResponse {w : Word} (h : Agrees u s) (hd : runDispatch w s = .next t) :
    Agrees { u with resp := t.resp, deadline := now + t.cfg.w, settleAt := now + t.cfg.s }
      (beginResponse now t) := by
  obtain ⟨_, _, _, _, htxFlag, htxRes, hrxFlag, hrxRes, hhold, hcount, _⟩ :=
    dispatchWritesNoLinkRegister w s t hd
  exact ⟨fun _ => rfl, by simpa [htxFlag, htxRes] using h.txRes, by simpa [hrxFlag, hrxRes] using h.rxRes,
    by simpa [hhold, hcount] using h.held, by simpa [hhold] using h.entries, fun _ => rfl, fun _ => rfl⟩

/-- The guards of a transition read only what the two states agree on, so it goes on from both by the same
rule. -/
theorem transition_overlay {p : State × Bool} (h : Agrees u s) (hp : TransitionCase now s p) :
    ∃ v, TransitionCase now (overlay u s) (overlay v p.1, p.2) ∧ Agrees v p.1 := by
  cases hp with
  | remoteAssociated hr hl ha =>
    exact ⟨u, .remoteAssociated hr hl ha, { h with deadline := by simp [deadlineLive] }⟩
  | remoteInitWaits hr hl ha =>
    exact ⟨u, .remoteInitWaits hr hl ha, { h with deadline := by simp [deadlineLive] }⟩
  | remoteAssociateWaits hr hl ha => exact ⟨u, .remoteAssociateWaits hr hl ha, h⟩
  | remoteSends hr hl hc =>
    exact ⟨{ u with deadline := now + s.cfg.w }, .remoteSends hr hl hc,
      { h with deadline := fun _ => rfl }⟩
  | remoteHoldEmpty hr hl hc =>
    exact ⟨{ u with deadline := now }, .remoteHoldEmpty hr hl hc, { h with deadline := fun _ => rfl }⟩
  | remoteSent r hr hl hf hres =>
    have hcase := TransitionCase.remoteSent (now := now) (s := overlay u s) r hr hl hf
      ((h.txRes hf).trans hres)
    rw [drainTx_overlay, reportTx_overlay] at hcase
    exact ⟨{ u with deadline := now + s.cfg.w }, hcase,
      { h.drainTx.reportTx r with deadline := fun _ => rfl }⟩
  | remoteSendExpires hr hl hf hd =>
    have hdeadline := h.deadline (deadlineLive_iff.mpr (.inl hl))
    exact ⟨u, .remoteSendExpires hr hl hf (hdeadline.trans_le hd),
      { h with deadline := fun _ => hdeadline }⟩
  | remoteSendWaits hr hl hf hd =>
    have hdeadline := h.deadline (deadlineLive_iff.mpr (.inl hl))
    exact ⟨u, .remoteSendWaits hr hl hf (hd.trans_eq hdeadline.symm), h⟩
  | remoteResponds r c hr hl hf hres hc =>
    obtain ⟨v, hclose, hv⟩ := closeWindow_overlay (h.drainRx.response c r) now
    have hcase := TransitionCase.remoteResponds (now := now) (s := overlay u s) r c hr hl hf
      ((h.rxRes hf).trans hres) ((peekTop_overlay h).trans hc)
    rw [drainRx_overlay, response_overlay, hclose] at hcase
    exact ⟨v, hcase, hv⟩
  | remoteRearms q hr hl hf hres hq hpol =>
    exact ⟨u, .remoteRearms q hr hl hf ((h.rxRes hf).trans hres) hq hpol, { h.drainRx with }⟩
  | remoteErrorExpires q c hr hl hf hres hq hpol hc =>
    have hreported : Agrees u (emit (.commandLost c) (emit (.transportError (rxErrorKind q)) (drainRx s))) :=
      { h.drainRx with }
    obtain ⟨v, hclose, hv⟩ := closeWindow_overlay hreported now
    exact ⟨v, hclose ▸ .remoteErrorExpires q c hr hl hf ((h.rxRes hf).trans hres) hq hpol
      ((peekTop_overlay h).trans hc), hv⟩
  | remoteReceiveExpires c hr hl hf hd hc =>
    have hdeadline := h.deadline (deadlineLive_iff.mpr (.inr ⟨hl, hr⟩))
    have hreported : Agrees u (emit (.commandLost c) s) := { h with }
    obtain ⟨v, hclose, hv⟩ := closeWindow_overlay hreported now
    exact ⟨v, hclose ▸ .remoteReceiveExpires c hr hl hf (hdeadline.trans_le hd)
      ((peekTop_overlay h).trans hc), hv⟩
  | remoteReceiveWaits hr hl hf hd =>
    have hdeadline := h.deadline (deadlineLive_iff.mpr (.inr ⟨hl, hr⟩))
    exact ⟨u, .remoteReceiveWaits hr hl hf (hd.trans_eq hdeadline.symm), h⟩
  | stationAssociated hr hl ha =>
    exact ⟨u, .stationAssociated hr hl ha, { h with deadline := by simp [deadlineLive, hr] }⟩
  | stationInitWaits hr hl ha =>
    exact ⟨u, .stationInitWaits hr hl ha, { h with deadline := by simp [deadlineLive] }⟩
  | stationAssociateWaits hr hl ha => exact ⟨u, .stationAssociateWaits hr hl ha, h⟩
  | stationDispatches w t hr hl hf hres hd =>
    have hd' : runDispatch w (drainRx (overlay u s)) = .next (overlay { u with resp := t.resp } t) := by
      rw [drainRx_overlay, runDispatch_overlay, hd]; rfl
    exact ⟨_, .stationDispatches (s := overlay u s) w _ hr hl hf ((h.rxRes hf).trans hres) hd',
      h.drainRx.beginResponse hd⟩
  | stationRearms q hr hl hf hres hq =>
    exact ⟨u, .stationRearms q hr hl hf ((h.rxRes hf).trans hres) hq, { h.drainRx with }⟩
  | stationListens hr hl hf => exact ⟨u, .stationListens hr hl hf, h⟩
  | stationSent r hr hl hp hf hres =>
    have hcase := TransitionCase.stationSent (now := now) (s := overlay u s) r hr hl hp hf
      ((h.txRes hf).trans hres)
    rw [drainTx_overlay, reportTx_overlay] at hcase
    exact ⟨u, hcase, { h.drainTx.reportTx r with deadline := by simp [deadlineLive, hr] }⟩
  | stationSendExpires hr hl hp hd =>
    have hdeadline := h.deadline (deadlineLive_iff.mpr (.inl hl))
    exact ⟨u, .stationSendExpires hr hl hp (hdeadline.trans_le hd),
      { h with deadline := fun _ => hdeadline, resp := by simp, settleAt := by simp }⟩
  | stationSendWaits hr hl hp hd =>
    have hdeadline := h.deadline (deadlineLive_iff.mpr (.inl hl))
    exact ⟨u, .stationSendWaits hr hl hp (hd.trans_eq hdeadline.symm), h⟩

theorem Agrees.submit (h : Agrees u s) (w : Word) : Agrees u (submit w s) :=
  { h with txRes := by simp }

theorem Agrees.entryAction (h : Agrees u s) : Agrees u (entryAction s) := by
  rcases entryAction_cases s with ⟨_, _, w, _, he⟩ | ⟨_, he⟩ | ⟨_, _, he⟩ <;> rw [he]
  · exact h.submit w
  · exact { h with rxRes := by simp }
  · exact h

theorem Agrees.settleAction (h : Agrees u s) (now : Nat) : Agrees u (settleAction now s) := by
  rcases settleAction_cases now s with ⟨_, _, he⟩ | ⟨_, he⟩ <;> rw [he]
  · exact { h.submit s.resp with resp := by simp, settleAt := by simp }
  · exact h

theorem actionPhase_overlay (h : Agrees u s) (now : Nat) (old : LinkState) (rearm : Bool) :
    actionPhase now old rearm (overlay u s) = overlay u (actionPhase now old rearm s) ∧
      Agrees u (actionPhase now old rearm s) := by
  have hsettle {a : State} (ha : Agrees u a) :
      (if a.cfg.role = .station ∧ a.ls = .send then settleAction now (overlay u a) else overlay u a) =
        overlay u (if a.cfg.role = .station ∧ a.ls = .send then settleAction now a else a) ∧
      Agrees u (if a.cfg.role = .station ∧ a.ls = .send then settleAction now a else a) := by
    split
    · exact ⟨settleAction_overlay ha now, ha.settleAction now⟩
    · exact ⟨rfl, ha⟩
  unfold actionPhase
  rw [overlay_ls]
  by_cases henter : s.ls ≠ old ∨ rearm = true
  · simp only [henter, if_true, entryAction_overlay h]
    exact hsettle h.entryAction
  · simp only [henter, if_false]
    exact hsettle h

theorem hostPush_of_remote {w : Word} (hr : s.cfg.role = .remote) :
    hostPush w s = .next (pushHold w s) := by
  simp [hostPush, hr]

/-- A step that goes on from one of the states goes on from the other, to two such states again. -/
theorem step_overlay_next (h : Agrees u s) (hs : step s = .next t) :
    ∃ v, step (overlay u s) = .next (overlay v t) ∧ Agrees v t := by
  have hstart (rest : List Input) : Agrees u (clearTrace (setInputs rest s)) := { h with }
  have hstep {i : Input} {rest : List Input} (hin : s.inputs = i :: rest) :
      step (overlay u s) = applyInput i (overlay u (clearTrace (setInputs rest s))) :=
    step_of_inputs (s := overlay u s) hin
  cases step_cases hs with
  | idle hin => exact ⟨u, step_eq_next.mpr (.inl ⟨hin, rfl⟩), { h with }⟩
  | push w rest hin hr =>
    obtain ⟨v, hpush, hv⟩ := pushHold_overlay (hstart rest) w
    have hrole : (overlay u (clearTrace (setInputs rest s))).cfg.role = .remote := hr
    refine ⟨v, ?_, hv⟩
    rw [hstep hin, applyInput, hostPush_of_remote hrole, hpush]
  | txDone r rest hin =>
    exact ⟨{ u with txRes := r }, hstep hin, { hstart rest with txRes := fun _ => rfl }⟩
  | rxDone q rest hin =>
    exact ⟨{ u with rxRes := q }, hstep hin, { hstart rest with rxRes := fun _ => rfl }⟩
  | tick now rest p hin hn hp =>
    obtain ⟨v, hcase, hv⟩ := transition_overlay (hstart rest) hp
    obtain ⟨haction, hkeep⟩ := actionPhase_overlay hv now s.ls p.2
    refine ⟨v, (hstep hin).trans ?_, { hkeep with }⟩
    exact tick_of_case (s := overlay u (clearTrace (setInputs rest s))) hn hcase haction

/-- Of what a refusal rests on (`stepIsRefusedExactlyWhenTheSpecHasNone`) only a received frame is in one of
those registers, and its flag is then set. -/
theorem step_overlay_refused {r : Refusal} (h : Agrees u s) (hs : step s = .refused r) :
    step (overlay u s) = .refused r := by
  obtain ⟨i, rest, hin, hcause⟩ := (stepIsRefusedExactlyWhenTheSpecHasNone s r).mp hs
  refine (stepIsRefusedExactlyWhenTheSpecHasNone (overlay u s) r).mpr ⟨i, rest, hin, ?_⟩
  rcases hcause with htime | hpush | ⟨now, w, slot, sid, dur, hi, hn, hr, hl, hflag, hres, hcmd⟩
  · exact .inl htime
  · exact .inr (.inl hpush)
  · exact .inr (.inr ⟨now, w, slot, sid, dur, hi, hn, hr, hl, hflag, (h.rxRes hflag).trans hres, hcmd⟩)

/-- The role alone decides which fault a transition can end in. -/
theorem transition_fault_reason {r : Fault} (h : transition now s = .fault r) :
    r = if s.cfg.role = .remote then .emptyHold else .noRule := by
  rcases transition_fault h with ⟨hr, hl, hempty⟩ | ⟨hr, hl⟩
  · have htop : peekTop s = none := peekTop_eq_none.mpr hempty
    simp only [transition, hr, remoteTransition, hl, remoteReceive, remoteResponse, remoteExpire,
      emit_peekTop, drainRx_peekTop, htop] at h
    rw [if_pos hr]
    split at h
    · cases h; rfl
    · split at h <;> cases h; rfl
    · split at h <;> cases h; rfl
  · simp only [transition, hr, stationTransition, hl, Host.Outcome.fault.injEq] at h
    simp [← h, hr]

theorem step_fault_reason {r : Fault} (h : step s = .fault r) :
    r = if s.cfg.role = .remote then .emptyHold else .noRule := by
  cases hin : s.inputs with
  | nil => simp [step, hin] at h
  | cons i rest =>
    rw [step_of_inputs hin] at h
    cases i with
    | tick now =>
      simp only [applyInput, tick] at h
      split at h
      · cases h
      · rcases andThen_eq_fault.mp h with hfault | ⟨p, _, hnext⟩
        · exact transition_fault_reason (s := clearTrace (setInputs rest s)) hfault
        · cases hnext
    | push w => simp only [applyInput, hostPush] at h; split at h <;> cases h
    | txDone | rxDone => cases h

/-- Settles O42: the two states are one state with two choices of the unread registers, and each outcome of a
step from one of them is the outcome from the other. -/
theorem unwrittenRegistersAreNeverRead : Obligations.UnwrittenRegistersAreNeverRead := by
  intro s t hst
  obtain ⟨u, rfl, h⟩ := sameVisible_iff.mp hst
  cases hs : step s with
  | next s' =>
    obtain ⟨v, hnext, hv⟩ := step_overlay_next h hs
    rw [hnext]
    exact sameVisible_overlay_iff.mpr hv
  | refused r =>
    rw [step_overlay_refused h hs]
    rfl
  | fault r =>
    cases ht : step (overlay u s) with
    | next t' =>
      obtain ⟨v, hnext, _⟩ := step_overlay_next h.symm ht
      rw [overlay_unspecified, hs] at hnext
      cases hnext
    | refused r' =>
      have hrefused := step_overlay_refused h.symm ht
      rw [overlay_unspecified, hs] at hrefused
      cases hrefused
    | fault r' => exact (step_fault_reason hs).trans (step_fault_reason ht).symm

end

/-! ### A run -/

/-- Outcomes that are the same stay so under what follows them, if that answers related states alike. -/
theorem sameOutcome_andThen {R R' : State → State → Prop} {o o' : Host.Outcome State Fault Refusal}
    {f g : State → Host.Outcome State Fault Refusal} (h : SameOutcome R o o')
    (hfg : ∀ a b, R a b → SameOutcome R' (f a) (g b)) :
    SameOutcome R' (andThen o f) (andThen o' g) := by
  cases o with
  | next a => cases o' with
    | next b => exact hfg a b h
    | fault | refused => exact h.elim
  | fault r => cases o' with
    | fault r' => exact h
    | next | refused => exact h.elim
  | refused r => cases o' with
    | refused r' => exact h
    | next | fault => exact h.elim

theorem run_sameVisible {n : Nat} {s t : State} (h : SameVisible s t) :
    SameOutcome SameVisible (Sys2Proof.core.run n s) (Sys2Proof.core.run n t) := by
  induction n generalizing s t with
  | zero => exact h
  | succ n ih =>
    rw [run_succ, run_succ]
    exact sameOutcome_andThen (unwrittenRegistersAreNeverRead s t h) fun _ _ => ih

theorem resetWith_hold_length (c : Config) (u : Unspecified) :
    (State.resetWith c u).hold.length = if c.role = .remote then c.k else 0 := by
  simp only [State.resetWith]
  split <;> simp

theorem resetWith_sameVisible (c : Config) (u v : Unspecified) (is : List Input) :
    SameVisible { State.resetWith c u with inputs := is } { State.resetWith c v with inputs := is } where
  visible := rfl
  entries := (resetWith_hold_length c u).trans (resetWith_hold_length c v).symm

/-- Settles O43, by induction on the number of steps from O42: at construction every flag is clear, so no rule
can read the choice. -/
theorem unspecifiedResetValuesNeverShow : Obligations.UnspecifiedResetValuesNeverShow :=
  fun c u v is _ => run_sameVisible (resetWith_sameVisible c u v is)

end Sys2Proof.Machine
end

section
/-! SUPPORT. Reset and hazards (70_reset_and_hazards.md): the invariant at construction, which commands commit
the staging record, the node that waits for ever and the one that never answers, and three hazards of the
Remote's round trip, run tick by tick. -/

namespace Sys2Proof.Machine

/-! ### Construction -/

theorem resetWith_linkInv {c : Config} (u : Unspecified) (hc : c.valid = true) :
    LinkInv (.resetWith c u) where
  config      := hc
  associated  := rfl
  countLe     := Nat.zero_le _
  holdRemote  := fun hr => (resetWith_hold_length c u).trans (if_pos hr)
  holdStation := fun hs => ⟨if_neg (by simp [show c.role = .station from hs]), rfl⟩
  topHeld     := by simp [State.resetWith]
  noBuffering := by simp [State.resetWith]
  pendingSend := by simp [State.resetWith]
  settleTime  := by simp [State.resetWith]
  waiting     := fun _ => .inl rfl
  startTimes  := rfl
  durations   := List.length_replicate

/-- Settles O38: the guard of a construction is `Config.valid`, which the vectors' configuration meets. -/
theorem constructionMeetsTheInvariant : Obligations.ConstructionMeetsTheInvariant :=
  ⟨fun _ u hc => ⟨if_pos hc, resetWith_linkInv u hc⟩, fun _ _ hc => if_neg hc,
    resetWith_linkInv .zero (by decide)⟩

/-! ### The staging record -/

/-- Settles O23, branch by branch: only two of them call an upsert, and it carries the staging record, which
the end of a dispatch leaves. -/
theorem onlyAddAndSetupCommitStaging : Obligations.OnlyAddAndSetupCommitStaging := by
  intro i s t slot g h hmem
  cases i <;> simp only [exec, execTestStation, execProgramAddDel, execProgramMainSetup,
    execProgramDays, execProgramStartTime, execProgramDuration, execTimeSync, execTimeZoneSync,
    execCurrentRequest, execEmergencyShutdown, execStationReboot, execSyncError] at h <;>
    obtain ⟨b, hb, rfl⟩ := dispatchWith_eq_next.mp h
  case programAddDel slotId add =>
    split at hb
    next hadd =>
      split at hb <;> cases hb
      · have hcall : Call.upsert slot g ∈ s.calls ∨ slot = slotId ∧ g = s.staging := by
          simpa using hmem
        refine hcall.imp_right ?_
        rintro ⟨rfl, rfl⟩
        exact ⟨by simp, .inl ⟨add, rfl, flagField_eq_true.mp hadd⟩⟩
      · exact .inl (by simpa using hmem)
    next =>
      split at hb <;> cases hb <;> exact .inl (by simpa using hmem)
  case programMainSetup =>
    cases hb
    rw [respond_calls, storeUpsert_calls, List.mem_append, List.mem_singleton] at hmem
    refine hmem.imp_right fun hcall => ?_
    cases hcall
    exact ⟨by simp, .inr ⟨_, _, _, _, _, rfl⟩⟩
  case programDuration =>
    split at hb <;> cases hb
    exact .inl hmem
  all_goals
    cases hb
    exact .inl (by simpa using hmem)

/-! ### A node that waits for ever -/

/-- What every step keeps, every run keeps. -/
theorem run_keeps {P : State → Prop} (hstep : ∀ s t, P s → step s = .next t → P t) {n : Nat}
    {s t : State} (hs : P s) (h : Sys2Proof.core.run n s = .next t) : P t := by
  induction n generalizing s with
  | zero => cases h; exact hs
  | succ n ih =>
    rw [run_succ] at h
    obtain ⟨a, ha, hrun⟩ := andThen_eq_next.mp h
    exact ih (hstep s a hs ha) hrun

/-- The node is not associated, is in one of the two states that wait for that, and has shown nothing. -/
def WaitsSilently (s : State) : Prop :=
  (s.ls = .init ∨ s.ls = .associate) ∧ s.associated = false ∧ s.out = []

theorem transition_keeps_waitsSilently {now : Nat} {s : State} {p : State × Bool}
    (hs : WaitsSilently s) (h : TransitionCase now s p) : WaitsSilently p.1 := by
  obtain ⟨hl, ha, hout⟩ := hs
  cases h with
  | remoteInitWaits | stationInitWaits => exact ⟨.inr rfl, ha, hout⟩
  | remoteAssociateWaits | stationAssociateWaits => exact ⟨hl, ha, hout⟩
  | _ => simp_all

theorem step_keeps_waitsSilently (s t : State) (hs : WaitsSilently s) (h : step s = .next t) :
    WaitsSilently t := by
  obtain ⟨hl, ha, _⟩ := hs
  cases step_cases h with
  | idle | push | txDone | rxDone => exact ⟨by simpa using hl, by simpa using ha, by simp⟩
  | tick now rest p _ _ hp =>
    have hstart : WaitsSilently (clearTrace (setInputs rest s)) := ⟨hl, ha, rfl⟩
    have hkept : WaitsSilently p.1 := transition_keeps_waitsSilently hstart hp
    rw [actionPhase_of_ls_ne]
    · exact hkept
    · rcases hkept.1 with hl | hl <;> simp [hl]
    · rcases hkept.1 with hl | hl <;> simp [hl]

/-- Settles O50: the two states go to each other alone, and neither has an action. -/
theorem unassociatedNodeWaitsForEver : Obligations.UnassociatedNodeWaitsForEver :=
  fun _ _ _ ha hl hout h => run_keeps step_keeps_waitsSilently ⟨hl, ha, hout⟩ h

/-! ### A Station that never answers -/

theorem submits_eq_false_iff {es : List Event} : submits es = false ↔ ∀ f, Event.submit f ∉ es := by
  induction es with
  | nil => simp [submits]
  | cons e es ih =>
    cases e with
    | submit f => simpa [submits] using ⟨f, fun h => absurd rfl h⟩
    | _ => simpa [submits] using ih

/-- A Station's transition that ends in `Send` leaves a window that is not over: R233 begins it, and R235
leaves `Send` at its end (44_link_station.md). -/
theorem station_transition_window_open {now : Nat} {s : State} {p : State × Bool}
    (hr : s.cfg.role = .station) (hw : 1 ≤ s.cfg.w) (h : TransitionCase now s p) (hl : p.1.ls = .send) :
    now < p.1.deadline := by
  cases h with
  | stationDispatches w t _ _ _ _ hd =>
    have hcfg : t.cfg = s.cfg := by simpa using runDispatch_cfg hd
    simpa [hcfg] using Nat.lt_of_lt_of_le Nat.zero_lt_one hw
  | stationSendWaits _ _ _ hd => exact hd
  | _ => simp_all

/-- Settles O51: a pending response settles at or after its deadline, and wherever the settle action is reached
the window is not over. -/
theorem settleDelayAtLeastTheWindowNeverAnswers :
    Obligations.SettleDelayAtLeastTheWindowNeverAnswers := by
  intro s t hi hs hdelay h
  rw [submits_eq_false_iff]
  intro f hf
  cases step_cases h with
  | idle | push | txDone | rxDone => simp at hf
  | tick now rest p _ _ hp =>
    have hnone : Event.submit f ∉ p.1.out := by
      simp [transition_mem_out_of_port (e := .submit f) hp rfl]
    have hstart : LinkInv (clearTrace (setInputs rest s)) := linkInv_of_linkRegs_eq (by simp) hi
    have hcfg : p.1.cfg = s.cfg := (transition_cfg_associated hp).1
    rcases actionPhase_cases now s.ls p.2 p.1 with
      ⟨hr, _⟩ | ⟨_, _, he⟩ | ⟨_, hl, hpending, hsettled, _⟩ | ⟨_, _, _, he⟩
    · simp [hcfg, hs] at hr
    · simp [he, hnone] at hf
    · have hsettle := (transition_keeps_linkInv hstart hp).settleTime hpending
      have hwindow : 1 ≤ s.cfg.w := by
        have hvalid := hi.config
        simp only [Config.valid, Bool.and_eq_true, decide_eq_true_eq] at hvalid
        exact hvalid.1.2
      have hopen := station_transition_window_open (s := clearTrace (setInputs rest s)) hs hwindow hp hl
      rw [hcfg] at hsettle
      omega
    · simp [he, hnone] at hf

/-! ### Hazards of the Remote's round trip -/

/-- Settles O52: the timeout leaves the expired deadline in place, so the next tick ends the receive window. -/
theorem sendTimeoutLeavesNoReceiveWindow : Obligations.SendTimeoutLeavesNoReceiveWindow := by
  intro s t1 t2 c hi hr hl hflag hn1 hexpired hn2 htop hin
  have hlen : s.count ≤ s.hold.length := hi.holdRemote hr ▸ hi.countLe
  refine run_goes_on hin (tick_of_case hn1 (.remoteSendExpires hr hl hflag hexpired)
    (actionPhase_arms rfl (by simp [hl]))) ?_
  refine run_goes_on rfl (tick_closes_window (by simpa using hn2)
    (.remoteReceiveExpires c (by simpa using hr) (by simp) (by simp)
      (by simpa using hexpired.trans hn2) (by rw [← htop]; exact peekTop_congr (by simp) (by simp)))) ?_
  exact ⟨_, run_zero _, rfl, by simp, by simpa [heldWords] using heldWords_pop hlen, by simp⟩

/-- A Remote in `Buffering` submits its top in the next tick, whenever that is (43_link_remote.md R202). -/
theorem run_submits_top {s : State} {now : Nat} {w : Word} {Q : State → Prop}
    (hin : s.inputs = [.tick now]) (hr : s.cfg.role = .remote) (hl : s.ls = .buffering)
    (hn : s.lastNow ≤ now) (htop : peekTop s = some w)
    (hQ : ∀ t, t.ls = .send → t.out = [.submit (toFrame w)] → t.deadline = now + s.cfg.w → Q t) :
    ∃ t, Sys2Proof.core.run 1 s = .next t ∧ Q t := by
  refine run_goes_on hin (tick_of_case hn (.remoteSends hr hl (peekTop_eq_some.mp htop).1)
    (actionPhase_enters_send hr rfl (by simp [hl]) htop)) ?_
  exact ⟨_, run_zero _, hQ _ rfl rfl rfl⟩

/-- Settles O53: the response leaves the Remote in `Buffering`, whose tick resets the timer to `now` before its
backoff check. -/
theorem backoffDoesNotDelayTheNextWord : Obligations.BackoffDoesNotDelayTheNextWord := by
  intro s t1 t2 r _ hr hl hflag hres hn1 hn2 hcount hin
  obtain ⟨c, htop⟩ := peekTop_isSome (s := s) (by omega)
  obtain ⟨w, hnext⟩ := peekTop_isSome (s := popTop s) (by rw [popTop_count]; omega)
  rw [exists_comm]
  refine ⟨w, run_goes_on hin (remoteTakesAResponse t1 _ c r hr hn1 hl hflag hres htop) ?_⟩
  exact run_submits_top (now := t2) (by simp) (by simpa using hr) (by simp) (by simpa using hn2)
    ((peekTop_congr (by simp) (by simp)).trans hnext)
    fun t hls hout hdeadline => ⟨hnext, hls, hout, by simpa using hdeadline⟩

/-- What a round trip leaves in which `b` was pushed onto a Remote that waited for the response to its top `a`
(70_reset_and_hazards.md R325). -/
structure AfterMismatch (s : State) (a b : Word) (now : Nat) (t : State) : Prop where
  cfg     : t.cfg = s.cfg
  ls      : t.ls = .buffering
  lastNow : t.lastNow = now
  out     : t.out = [.protocolMismatch b a]
  held    : heldWords t = heldWords s
  top     : peekTop t = peekTop s

theorem hostPush_of_room {s : State} {w : Word} (hr : s.cfg.role = .remote) (hroom : s.count < s.cfg.k) :
    hostPush w s = .next { s with hold := s.hold.set s.count w, count := s.count + 1 } := by
  rw [hostPush_of_remote hr, pushHold_of_room hroom]

/-- The push, the completion, the response to `a` and the two ticks that take them. -/
theorem run_goes_on_after_mismatch {s : State} {a b : Word} {t1 t2 n : Nat} {rest : List Input}
    {Q : State → Prop} (hi : LinkInv s) (hr : s.cfg.role = .remote) (hl : s.ls = .send)
    (hne : a ≠ b) (hnosync : opcodeOf a ≠ s.cfg.opc.syncError) (hroom : s.count < s.cfg.k)
    (hn1 : s.lastNow ≤ t1) (hn2 : t1 ≤ t2)
    (hin : s.inputs = .push b :: .txDone .ok :: .tick t1 :: .rxDone (.frame a) :: .tick t2 :: rest)
    (hrun : ∀ t, t.inputs = rest → AfterMismatch s a b t2 t →
      ∃ u, Sys2Proof.core.run n t = .next u ∧ Q u) :
    ∃ u, Sys2Proof.core.run (n + 5) s = .next u ∧ Q u := by
  have hlen : s.hold.length = s.cfg.k := hi.holdRemote hr
  refine run_goes_on hin (hostPush_of_room (by simpa using hr) (by simpa using hroom)) ?_
  refine run_goes_on rfl rfl ?_
  refine run_goes_on rfl (tick_of_case (by simpa using hn1)
    (.remoteSent .ok (by simpa using hr) (by simpa using hl) (by simp) (by simp))
    (actionPhase_arms rfl (by simp [hl]))) ?_
  refine run_goes_on rfl rfl ?_
  refine run_goes_on rfl (remoteTakesAResponse t2 _ b a (by simpa using hr) (by simpa using hn2) (by simp)
    (by simp) (by simp) ?_) ?_
  · exact peekTop_eq_some.mpr ⟨by simp, by simp [hlen, hroom]⟩
  · refine hrun _ (by simp) ⟨by simp, by simp, by simp, by simp [hne, hnosync], ?_, ?_⟩
    · simp [heldWords, List.take_set_of_le]
    · have hbelow : s.count ≠ s.count - 1 := by
        have htop := hi.topHeld hr (.inl hl)
        omega
      simp [peekTop, holdRead, hbelow]

/-- Settles O54: the pushed word is on top when the response comes, and once it is popped the top is the word
sent before, which the next tick submits. -/
theorem pushDuringARoundTripMismatches : Obligations.PushDuringARoundTripMismatches := by
  intro s a b t1 t2 t3 hi hr hl htop hne hnosync hroom hn1 hn2 hn3
  have hany (is : List Input) : LinkInv { s with inputs := is } := linkInv_of_linkRegs_eq (s := s) rfl hi
  constructor
  · exact run_goes_on_after_mismatch (n := 0) (hany _) hr hl hne hnosync hroom hn1 hn2 rfl
      fun t _ ht => ⟨t, run_zero t, ht.out, ht.held⟩
  · refine run_goes_on_after_mismatch (n := 1) (hany _) hr hl hne hnosync hroom hn1 hn2 rfl
      fun t hin ht => ?_
    exact run_submits_top hin (ht.cfg ▸ hr) ht.ls (ht.lastNow.trans_le hn3) (ht.top.trans htop)
      fun _ _ hout _ => hout

end Sys2Proof.Machine
end
